-- ==== Sys2Proof/Word.lean ====
section
/-! DEFINITION. The block's data types: a byte, a 64-bit command word and its fields, a 32-bit value
returned to the host (00_scope.md rule R8, 30_encoding.md rule R111). -/

namespace Sys2Proof

/-- A byte is 8 bits (00_scope.md rule R8). -/
abbrev Byte := BitVec 8

/-- A host command word is 64 bits (00_scope.md rule R7, 30_encoding.md rule R111). -/
abbrev Word := BitVec 64

/-- A value LDB or RDR returns is 32 bits (43_host_access.md rule R220). -/
abbrev RetVal := BitVec 32

end Sys2Proof
end

