-- ==== Sys2Proof/Syntax.lean ====
section
/-! DEFINITION. The thirteen commands as syntax (30_encoding.md rules R110 to R113), the fields of a
command word, and the names under which a decoder rejects a word. -/

namespace Sys2Proof

/-- The two wire encodings; CFG.MODE (10_state.md rule R23) and SETCFG's operand `mode`. -/
inductive Mode where
  | rtu     -- 0
  | ascii   -- 1
  deriving DecidableEq, Repr

/-- A command with its operands, one constructor per row of spec/opcode_table.json. Operand widths are
those of 30_encoding.md rules R112 to R114: `space` and `n` are the operand bits the row's mask leaves
free, and the row's value constraint on them is WellFormed's. -/
inductive Instr where
  | crc16
  | lrc
  | buildRtu (slave func : BitVec 8) (start qty : BitVec 16)
  | buildAscii (slave func : BitVec 8) (start qty : BitVec 16)
  | parseRtu
  | parseAscii
  | rdregs (start qty : BitVec 16)
  | regslice (index : BitVec 32)
  | push (byte : Byte)
  | clrin
  | ldb (space : BitVec 3) (index : BitVec 32)
  | rdr (n : BitVec 5)
  | setcfg (mode : Mode) (slave : BitVec 8)
  deriving DecidableEq, Repr

/-- The thirteen rows of the opcode table without their operands (30_encoding.md rule R110). -/
inductive Op where
  | crc16 | lrc | buildRtu | buildAscii | parseRtu | parseAscii | rdregs | regslice
  | push | clrin | ldb | rdr | setcfg
  deriving DecidableEq, Repr

/-- The command formats of 30_encoding.md rule R112. -/
inductive Format where
  | n | b | r | x | p | g | c
  deriving DecidableEq, Repr

/-- The fields of a command word (30_encoding.md rule R111); `x` is the overlay of `c` and `d`. -/
structure Fields where
  op : BitVec 8
  a  : BitVec 8
  b  : BitVec 8
  c  : BitVec 16
  d  : BitVec 16
  z  : BitVec 8
  deriving DecidableEq, Repr

/-- Why a word is none of the thirteen commands (30_encoding.md rule R120). -/
inductive Reject where
  /-- `op` is no opcode of rule R110. -/
  | unknownOpcode
  /-- A bit of a must-be-zero field is set. -/
  | mustBeZero
  /-- LDB with `a > 4`. -/
  | spaceOutOfRange
  /-- RDR with `a > 17`. -/
  | registerOutOfRange
  deriving DecidableEq, Repr

/-- The row a command belongs to. -/
def Instr.op : Instr → Op
  | .crc16 => .crc16
  | .lrc => .lrc
  | .buildRtu _ _ _ _ => .buildRtu
  | .buildAscii _ _ _ _ => .buildAscii
  | .parseRtu => .parseRtu
  | .parseAscii => .parseAscii
  | .rdregs _ _ => .rdregs
  | .regslice _ => .regslice
  | .push _ => .push
  | .clrin => .clrin
  | .ldb _ _ => .ldb
  | .rdr _ => .rdr
  | .setcfg _ _ => .setcfg

end Sys2Proof
end

