-- ==== Sys2Proof/WellFormed.lean ====
section
/-! DEFINITION. The value constraints of the opcode table (30_encoding.md rule R114): LDB's space is
at most 4, RDR's register number at most 17. Every other operand value is legal. -/

namespace Sys2Proof

def WellFormed : Instr → Bool
  | .crc16 => true
  | .lrc => true
  | .buildRtu _ _ _ _ => true
  | .buildAscii _ _ _ _ => true
  | .parseRtu => true
  | .parseAscii => true
  | .rdregs _ _ => true
  | .regslice _ => true
  | .push _ => true
  | .clrin => true
  | .ldb space _ => space ≤ 4#3
  | .rdr n => n ≤ 17#5
  | .setcfg _ _ => true

end Sys2Proof
end

