-- ==== Sys2Proof/Decode.lean ====
section
/-! DEFINITION. The command decoder, total on every 64-bit word, and the encoder, both written from the
field layout and formats of 30_encoding.md rules R111 to R113; beside them the match and mask table of
rule R114, which the decoder is to agree with. -/

namespace Sys2Proof

/-- The opcode byte of each command (30_encoding.md rule R110). -/
def Op.code : Op → BitVec 8
  | .crc16 => 0x01#8
  | .lrc => 0x02#8
  | .buildRtu => 0x10#8
  | .buildAscii => 0x11#8
  | .parseRtu => 0x20#8
  | .parseAscii => 0x21#8
  | .rdregs => 0x30#8
  | .regslice => 0x31#8
  | .push => 0x40#8
  | .clrin => 0x41#8
  | .ldb => 0x42#8
  | .rdr => 0x43#8
  | .setcfg => 0x50#8

/-- Every row of the opcode table. -/
def Op.all : List Op :=
  [.crc16, .lrc, .buildRtu, .buildAscii, .parseRtu, .parseAscii, .rdregs, .regslice,
   .push, .clrin, .ldb, .rdr, .setcfg]

/-- The format of each command (30_encoding.md rule R112). -/
def Op.format : Op → Format
  | .crc16 => .n
  | .lrc => .n
  | .buildRtu => .b
  | .buildAscii => .b
  | .parseRtu => .n
  | .parseAscii => .n
  | .rdregs => .r
  | .regslice => .x
  | .push => .p
  | .clrin => .n
  | .ldb => .x
  | .rdr => .g
  | .setcfg => .c

/-- The match value of each row (30_encoding.md rule R114). -/
def Op.matchBits : Op → Word
  | .crc16 => 0x0100000000000000#64
  | .lrc => 0x0200000000000000#64
  | .buildRtu => 0x1000000000000000#64
  | .buildAscii => 0x1100000000000000#64
  | .parseRtu => 0x2000000000000000#64
  | .parseAscii => 0x2100000000000000#64
  | .rdregs => 0x3000000000000000#64
  | .regslice => 0x3100000000000000#64
  | .push => 0x4000000000000000#64
  | .clrin => 0x4100000000000000#64
  | .ldb => 0x4200000000000000#64
  | .rdr => 0x4300000000000000#64
  | .setcfg => 0x5000000000000000#64

/-- The mask of each row (30_encoding.md rule R114). -/
def Op.mask : Op → Word
  | .crc16 => 0xFFFFFFFFFFFFFFFF#64
  | .lrc => 0xFFFFFFFFFFFFFFFF#64
  | .buildRtu => 0xFF000000000000FF#64
  | .buildAscii => 0xFF000000000000FF#64
  | .parseRtu => 0xFFFFFFFFFFFFFFFF#64
  | .parseAscii => 0xFFFFFFFFFFFFFFFF#64
  | .rdregs => 0xFFFFFF00000000FF#64
  | .regslice => 0xFFFFFF00000000FF#64
  | .push => 0xFF00FFFFFFFFFFFF#64
  | .clrin => 0xFFFFFFFFFFFFFFFF#64
  | .ldb => 0xFFF8FF00000000FF#64
  | .rdr => 0xFFE0FFFFFFFFFFFF#64
  | .setcfg => 0xFFFE00FFFFFFFFFF#64

/-- The value constraint of each row (30_encoding.md rule R114), on the field `a` of the word. -/
def Op.constraint (o : Op) (w : Word) : Bool :=
  match o with
  | .ldb => decide ((w.extractLsb' 48 8).toNat ≤ 4)
  | .rdr => decide ((w.extractLsb' 48 8).toNat ≤ 17)
  | _ => true

/-- A word is a row's command iff it matches under the mask and meets the value constraint. -/
def Op.claims (o : Op) (w : Word) : Bool :=
  w &&& o.mask == o.matchBits && o.constraint w

/-- The row of an opcode byte, if any. -/
def Op.ofCode (c : BitVec 8) : Option Op :=
  Op.all.find? (fun o => o.code == c)

/-- Cutting a word into its fields (30_encoding.md rule R111). -/
def fieldsOf (w : Word) : Fields where
  op := w.extractLsb' 56 8
  a := w.extractLsb' 48 8
  b := w.extractLsb' 40 8
  c := w.extractLsb' 24 16
  d := w.extractLsb' 8 16
  z := w.extractLsb' 0 8

/-- Joining fields to a word (30_encoding.md rule R111). -/
def Fields.word (f : Fields) : Word :=
  f.op ++ f.a ++ f.b ++ f.c ++ f.d ++ f.z

/-- "every field not named must be zero" (30_encoding.md rules R111, R112); of a named field narrower
than its place, the bits above the operand (rule R114's masks of LDB, RDR and SETCFG). -/
def Fields.restIsZero (o : Op) (f : Fields) : Bool :=
  f.z == 0 &&
  match o.format with
  | .n => f.a == 0 && f.b == 0 && f.c == 0 && f.d == 0
  | .b => true
  | .r => f.a == 0 && f.b == 0
  | .x => (if o = .ldb then f.a.extractLsb' 3 5 == 0 else f.a == 0) && f.b == 0
  | .p => f.b == 0 && f.c == 0 && f.d == 0
  | .g => f.a.extractLsb' 5 3 == 0 && f.b == 0 && f.c == 0 && f.d == 0
  | .c => f.a.extractLsb' 1 7 == 0 && f.c == 0 && f.d == 0

/-- SETCFG's `mode = a[0]`: 0 is RTU, 1 is ASCII (43_host_access.md rule R210). -/
def modeOfBit (m : Bool) : Mode := if m then .ascii else .rtu

def bitOfMode : Mode → Bool
  | .rtu => false
  | .ascii => true

/-- Operand assembly (30_encoding.md rule R113): every operand is an unsigned field copied as is. -/
def operands (o : Op) (f : Fields) : Instr :=
  match o with
  | .crc16 => .crc16
  | .lrc => .lrc
  | .buildRtu => .buildRtu f.a f.b f.c f.d
  | .buildAscii => .buildAscii f.a f.b f.c f.d
  | .parseRtu => .parseRtu
  | .parseAscii => .parseAscii
  | .rdregs => .rdregs f.c f.d
  | .regslice => .regslice (f.c ++ f.d)
  | .push => .push f.a
  | .clrin => .clrin
  | .ldb => .ldb (f.a.extractLsb' 0 3) (f.c ++ f.d)
  | .rdr => .rdr (f.a.extractLsb' 0 5)
  | .setcfg => .setcfg (modeOfBit (f.a.getLsbD 0)) f.b

/-- The name of a broken value constraint: only LDB and RDR have one (30_encoding.md rule R114). -/
def constraintReject : Instr → Reject
  | .rdr _ => .registerOutOfRange
  | _ => .spaceOutOfRange

/-- The decoder of command words: total, and rejecting by name (30_encoding.md rules R114, R120, R122). -/
def decode (w : Word) : Except Reject Instr :=
  match Op.ofCode (fieldsOf w).op with
  | none => .error .unknownOpcode
  | some o =>
    if (fieldsOf w).restIsZero o then
      let i := operands o (fieldsOf w)
      if WellFormed i then .ok i else .error (constraintReject i)
    else .error .mustBeZero

/-- The fields of a command, every field it does not use zero (30_encoding.md rules R112, R113). -/
def encodeFields : Instr → Fields
  | .crc16 => ⟨Op.crc16.code, 0, 0, 0, 0, 0⟩
  | .lrc => ⟨Op.lrc.code, 0, 0, 0, 0, 0⟩
  | .buildRtu slave func start qty => ⟨Op.buildRtu.code, slave, func, start, qty, 0⟩
  | .buildAscii slave func start qty => ⟨Op.buildAscii.code, slave, func, start, qty, 0⟩
  | .parseRtu => ⟨Op.parseRtu.code, 0, 0, 0, 0, 0⟩
  | .parseAscii => ⟨Op.parseAscii.code, 0, 0, 0, 0, 0⟩
  | .rdregs start qty => ⟨Op.rdregs.code, 0, 0, start, qty, 0⟩
  | .regslice index => ⟨Op.regslice.code, 0, 0, index.extractLsb' 16 16, index.extractLsb' 0 16, 0⟩
  | .push byte => ⟨Op.push.code, byte, 0, 0, 0, 0⟩
  | .clrin => ⟨Op.clrin.code, 0, 0, 0, 0, 0⟩
  | .ldb space index =>
    ⟨Op.ldb.code, space.setWidth 8, 0, index.extractLsb' 16 16, index.extractLsb' 0 16, 0⟩
  | .rdr n => ⟨Op.rdr.code, n.setWidth 8, 0, 0, 0, 0⟩
  | .setcfg mode slave => ⟨Op.setcfg.code, (BitVec.ofBool (bitOfMode mode)).setWidth 8, slave, 0, 0, 0⟩

/-- The word of a command: one 64-bit word each (30_encoding.md rule R111). -/
def encode (i : Instr) : Word := (encodeFields i).word

/-- The word given by its bits, numbered as spec/opcode_table.json numbers them: bits at and above
`nbits` are zero, and bits 63:0 are the (only) command word. -/
def tableWord (nbits w : Nat) : Word := BitVec.ofNat 64 (w % 2 ^ nbits)

/-- The command the decoder reads from a table word, none where it refuses. -/
def decodeTableWord (nbits w : Nat) : Option Instr :=
  (decode (tableWord nbits w)).toOption

end Sys2Proof
end

