-- ==== Sys2Proof/Machine/Bytes.lean ====
section
/-! DEFINITION. Byte sequences: slices, byte order and hex text (00_scope.md rule R9, 20_memory.md rules
R62 and R63, 30_encoding.md rules R91, R100 and R101). -/

namespace Sys2Proof.Machine

/-- The clamped slice `s[a:b]` of 00_scope.md rule R9. -/
def slice (s : List Byte) (a b : Nat) : List Byte := (s.take b).drop a

/-- `be16(v)`: bits 15:8 first (00_scope.md rule R9). -/
def be16 (v : BitVec 16) : List Byte := [v.extractLsb' 8 8, v.extractLsb' 0 8]

/-- `le16(v)`: bits 7:0 first (00_scope.md rule R9). -/
def le16 (v : BitVec 16) : List Byte := [v.extractLsb' 0 8, v.extractLsb' 8 8]

/-- `:` (30_encoding.md rule R91, its G1). -/
def colon : Byte := 0x3A

/-- `\r` (30_encoding.md rule R91, its G1). -/
def carriageReturn : Byte := 0x0D

/-- `\n` (30_encoding.md rule R91, its G1). -/
def lineFeed : Byte := 0x0A

/-- The uppercase hex digit of a nibble (30_encoding.md rule R100). -/
def digit (v : BitVec 4) : Byte :=
  if v.toNat < 10 then BitVec.ofNat 8 (0x30 + v.toNat) else BitVec.ofNat 8 (0x41 + (v.toNat - 10))

/-- `hex2(b)`: high nibble first (30_encoding.md rule R100, 20_memory.md rule R63). -/
def hex2 (b : Byte) : List Byte := [digit (b.extractLsb' 4 4), digit (b.extractLsb' 0 4)]

/-- `hex(s)` (30_encoding.md rule R100). -/
def hex : List Byte → List Byte
  | [] => []
  | b :: s => hex2 b ++ hex s

/-- The value of a hex digit, none for any other character; `a` to `f` are digits if and only if
`HEX_LOWER_OK` (30_encoding.md rule R101). -/
def digitVal (lowerOk : Bool) (c : Byte) : Option (BitVec 4) :=
  if 0x30 ≤ c.toNat ∧ c.toNat ≤ 0x39 then some (BitVec.ofNat 4 (c.toNat - 0x30))
  else if 0x41 ≤ c.toNat ∧ c.toNat ≤ 0x46 then some (BitVec.ofNat 4 (c.toNat - 0x41 + 10))
  else if lowerOk ∧ 0x61 ≤ c.toNat ∧ c.toNat ≤ 0x66 then some (BitVec.ofNat 4 (c.toNat - 0x61 + 10))
  else none

/-- `unhex(t)`, none for `invalid`: an odd count or a character that is no hex digit
(30_encoding.md rule R101). -/
def unhex (lowerOk : Bool) : List Byte → Option (List Byte)
  | [] => some []
  | [_] => none
  | hi :: lo :: t =>
    match digitVal lowerOk hi, digitVal lowerOk lo, unhex lowerOk t with
    | some h, some l, some s => some ((h ++ l) :: s)
    | _, _, _ => none

end Sys2Proof.Machine
end

