-- ==== Sys2Proof/Config.lean ====
section
/-! DEFINITION. What an implementation fixes (00_scope.md rule R7) and the values the spec leaves to the
environment (20_memory.md rule R75; 93_implementation_defined.md V1). -/

namespace Sys2Proof

/-- The open parameters of 00_scope.md rule R7. A state carries its own (notes/assumptions/1.md), so a
statement about every state is a statement about every value of them. -/
structure Params where
  /-- `IN_MAX`: capacity of INBUF in bytes. -/
  inMax : Nat
  /-- `ASCII_RX_MAX`: the "fixed buffer size" of an ASCII response read. -/
  asciiRxMax : Nat
  /-- `HEX_LOWER_OK`: whether PARSE.ASCII accepts the digits `a` to `f`. -/
  hexLowerOk : Bool
  deriving DecidableEq, Repr

/-- The constraints of 00_scope.md rule R7. -/
def Params.legal (p : Params) : Bool :=
  decide (1 ≤ p.inMax) && decide (17 + 2 * p.inMax < 2 ^ 32) &&
  decide (1 ≤ p.asciiRxMax) && decide (p.asciiRxMax < 2 ^ 32)

/-- The defaults of 00_scope.md rule R7: recommendations of the spec, no more. -/
def Params.default : Params := ⟨262144, 1024, false⟩

/-- The transport's answer to `reset_input_buffer()` where no answer is scripted: free
(20_memory.md rule R75, 93_implementation_defined.md V1). -/
opaque Config.freeFlushOk : Nat → Bool

/-- The transport's answer to `write(frame)` where no answer is scripted: free. -/
opaque Config.freeWriteOk : Nat → Bool

/-- The bytes the transport has for `read(max_bytes)` where no answer is scripted: free. -/
opaque Config.freeRx : Nat → List Byte

end Sys2Proof
end

