-- ==== Sys2Proof/Machine/State.lean ====
section
/-! DEFINITION. The state of the block (10_state.md), of its command port and of the transport behind it,
and the state after reset (10_state.md rule R40). Plain data throughout. -/

namespace Sys2Proof.Machine

/-- The outcomes a command can leave in STATUS.CODE (60_exceptions.md rule R230). -/
inductive Code where
  | ok
  | noResponse
  | shortResponse
  | frameTooShort
  | checksumMismatch
  | framingError
  | transportUnavailable
  | payloadTooShort
  | illegalCommand
  deriving DecidableEq, Repr

/-- STATUS, register 0 (10_state.md rule R22). Bits 31:6 are zero and have no home here. -/
structure Status where
  /-- bits 3:0, the outcome of the last status-writing command -/
  code : BitVec 4
  /-- bit 4, RSP_VALID -/
  rspValid : Bool
  /-- bit 5, CFG_VALID: also the written flag `W[1]` of CFG (10_state.md rule R26) -/
  cfgValid : Bool
  deriving DecidableEq, Repr

/-- CFG, register 1 (10_state.md rule R23). Its zero bits have no home here; its written flag is
CFG_VALID. -/
structure Cfg where
  mode  : Mode
  slave : BitVec 8
  deriving DecidableEq, Repr

/-- A data register of `w` bits together with its written flag `W[n]` (10_state.md rules R24, R26). -/
structure Latch (w : Nat) where
  value   : BitVec w
  written : Bool
  deriving DecidableEq, Repr

/-- The reset condition of such a register: the flag is 0. The value under a clear flag can never be
read (notes/assumptions/2.md). -/
def Latch.unwritten (w : Nat) : Latch w := ⟨0, false⟩

/-- The numbered address spaces (20_memory.md rule R60). -/
inductive Space where
  | inb | out | tx | rx | pay
  deriving DecidableEq, Repr

/-- The register map (10_state.md rule R24), in the order of the register numbers 0 to 17. -/
inductive Reg where
  | status | cfg | inlen | outlen | txlen | rxlen | paylen | crc | lrcr | rdlen
  | rspStart | rspQty | bytecnt | rblen | regaddr | reglen | regb0 | regb1
  deriving DecidableEq, Repr

/-- The five byte buffers (10_state.md rule R32), index 0 first. A buffer's length register is the
length of its list, and bytes at or beyond it are not state. -/
structure Memory where
  inb : List Byte
  out : List Byte
  tx  : List Byte
  rx  : List Byte
  pay : List Byte
  deriving DecidableEq, Repr

/-- The transport's answers to one RDREGS (00_scope.md rule R11, 20_memory.md rule R75). `rx` is what
the transport has to give; a read takes at most `max_bytes` of it. -/
structure Answers where
  flushOk : Bool
  writeOk : Bool
  rx      : List Byte
  deriving DecidableEq, Repr

/-- A call of the transport contract the block has made (20_memory.md rule R75). -/
inductive TransportCall where
  | resetInputBuffer
  | write (frame : List Byte)
  | read (maxBytes : Nat)
  deriving DecidableEq, Repr

/-- What the outside world does to the block at a command boundary: issue a command word, assert reset
between commands, or assert reset while the command `w` executes, when the first `made` of its transport
calls have gone out (70_reset_and_hazards.md rule R260). -/
inductive HostInput where
  | command (w : Word)
  | reset
  | commandCutByReset (w : Word) (made : Nat)
  deriving DecidableEq, Repr

/-- The whole machine: the block's registers and buffers (10_state.md rule R20), then the command port,
the parameters and the transport. -/
structure State where
  /-- register 0 -/
  status : Status
  /-- register 1 -/
  cfg : Cfg
  /-- register 7 -/
  crc : Latch 16
  /-- register 8 -/
  lrcr : Latch 8
  /-- register 9 -/
  rdlen : Latch 32
  /-- register 10 -/
  rspStart : Latch 16
  /-- register 11 -/
  rspQty : Latch 16
  /-- register 12 -/
  bytecnt : Latch 8
  /-- register 13 -/
  rblen : Latch 8
  /-- register 14 -/
  regaddr : Latch 17
  /-- register 15 -/
  reglen : Latch 2
  /-- register 16 -/
  regb0 : Latch 8
  /-- register 17 -/
  regb1 : Latch 8
  /-- the buffers; their lengths are registers 2 to 6 -/
  mem : Memory
  /-- the value the last command returned on the command port, none where it returns nothing
  (43_host_access.md rule R220) -/
  ret : Option RetVal
  /-- the implementation's parameters (00_scope.md rule R7); no command changes them -/
  par : Params
  /-- the host's inputs still to come, first one next -/
  port : List HostInput
  /-- the transport's scripted answers, one per RDREGS that reaches the transport, first one next -/
  answers : List Answers
  /-- how many free answers have been drawn: the argument of the next free value -/
  draws : Nat
  /-- every transport call made so far, oldest first: the record of the transport's side -/
  calls : List TransportCall
  deriving DecidableEq, Repr

/-- No command traps, hangs or is undefined (00_scope.md rule R15, 30_encoding.md rule R122): the block
has no fault, and this type no constructor. -/
inductive Fault where
  deriving DecidableEq, Repr

/-- Why a step has no meaning. -/
inductive Refusal where
  /-- Raised by an arm of exec whose instruction has no meaning yet; none is left. Safe. -/
  | notModelled (mnemonic : String)
  deriving DecidableEq, Repr

/-- The state after reset (10_state.md rule R40), nothing issued on the port and nothing scripted. -/
def State.reset : State where
  status := ⟨0, false, false⟩
  cfg := ⟨.rtu, 0⟩
  crc := .unwritten 16
  lrcr := .unwritten 8
  rdlen := .unwritten 32
  rspStart := .unwritten 16
  rspQty := .unwritten 16
  bytecnt := .unwritten 8
  rblen := .unwritten 8
  regaddr := .unwritten 17
  reglen := .unwritten 2
  regb0 := .unwritten 8
  regb1 := .unwritten 8
  mem := ⟨[], [], [], [], []⟩
  ret := none
  par := .default
  port := []
  answers := []
  draws := 0
  calls := []

end Sys2Proof.Machine
end

