-- ==== Sys2Proof/Machine/Flags.lean ====
section
/-! DEFINITION. The outcome codes and the packed views of STATUS and CFG (60_exceptions.md rule R230,
10_state.md rules R22 and R23). The block has no arithmetic flags (10_state.md rule R28). -/

namespace Sys2Proof.Machine

/-- The numeric code of an outcome (60_exceptions.md rule R230). -/
def Code.num : Code → BitVec 4
  | .ok => 0
  | .noResponse => 1
  | .shortResponse => 2
  | .frameTooShort => 3
  | .checksumMismatch => 4
  | .framingError => 5
  | .transportUnavailable => 6
  | .payloadTooShort => 7
  | .illegalCommand => 15

/-- Every outcome. -/
def Code.all : List Code :=
  [.ok, .noResponse, .shortResponse, .frameTooShort, .checksumMismatch, .framingError,
   .transportUnavailable, .payloadTooShort, .illegalCommand]

/-- STATUS as RDR 0 returns it: CODE in bits 3:0, RSP_VALID bit 4, CFG_VALID bit 5, zeros above
(10_state.md rule R22). -/
def Status.word (t : Status) : RetVal :=
  (0 : BitVec 26) ++ BitVec.ofBool t.cfgValid ++ BitVec.ofBool t.rspValid ++ t.code

/-- CFG as RDR 1 returns it: MODE in bit 0, SLAVE in bits 15:8, zeros elsewhere (10_state.md rule R23). -/
def Cfg.word (c : Cfg) : RetVal :=
  (0 : BitVec 16) ++ c.slave ++ (0 : BitVec 7) ++
    BitVec.ofBool (match c.mode with | .rtu => false | .ascii => true)

end Sys2Proof.Machine
end

