-- ==== Sys2Proof/Machine/Ops.lean ====
section
/-! DEFINITION. The shared operations over the state: buffers, registers with a written flag, leaving an
outcome (what the block has in place of taking an exception), the transport's calls and answers, reset. -/

namespace Sys2Proof.Machine

/-! ### Buffers -/

/-- The buffer of an address space (20_memory.md rule R60). -/
def Memory.buf (m : Memory) : Space → List Byte
  | .inb => m.inb
  | .out => m.out
  | .tx => m.tx
  | .rx => m.rx
  | .pay => m.pay

/-- `BUF <- s`: the whole content is replaced and the length register becomes `len(s)`
(00_scope.md rule R10). -/
def Memory.setBuf (m : Memory) (sp : Space) (bytes : List Byte) : Memory :=
  match sp with
  | .inb => { m with inb := bytes }
  | .out => { m with out := bytes }
  | .tx => { m with tx := bytes }
  | .rx => { m with rx := bytes }
  | .pay => { m with pay := bytes }

def State.buf (s : State) (sp : Space) : List Byte := s.mem.buf sp

def State.setBuf (s : State) (sp : Space) (bytes : List Byte) : State :=
  { s with mem := s.mem.setBuf sp bytes }

/-- `MemRead(S:i, 1)`, none for `i >= LEN(S)` (20_memory.md rule R61). -/
def State.readByte (s : State) (sp : Space) (i : Nat) : Option Byte := (s.buf sp)[i]?

/-- `MemWrite(IN:INLEN, 1, v)` followed by `INLEN <- INLEN + 1`, the only store (20_memory.md rule R61). -/
def State.append (s : State) (b : Byte) : State := s.setBuf .inb (s.buf .inb ++ [b])

/-- The capacity bounds of 10_state.md rule R25 on the five lengths. -/
def Memory.wf (p : Params) (m : Memory) : Bool :=
  decide (m.inb.length ≤ p.inMax) && decide (m.out.length ≤ 17 + 2 * p.inMax) &&
  (m.tx.length == 0 || m.tx.length == 8 || m.tx.length == 17) &&
  decide (m.rx.length ≤ max 131075 p.asciiRxMax) && decide (m.pay.length ≤ m.rx.length)

/-! ### Registers with a written flag -/

/-- `REG <- v`: the value, and the written flag set (10_state.md rule R26). -/
def Latch.write {w : Nat} (v : BitVec w) : Latch w := ⟨v, true⟩

/-- The zero-extended value of a written register, none for an unwritten one (10_state.md rules R25, R26). -/
def Latch.read {w : Nat} (r : Latch w) : Option RetVal :=
  if r.written then some (r.value.setWidth 32) else none

/-! ### Outcomes: what the block has in place of taking an exception

"Raising an outcome means, and means only" the write of STATUS.CODE, the command's own failure writes,
and the end of the command: nothing is saved and control goes nowhere (60_exceptions.md rule R236), so
there is nothing to return from (rule R237). -/

/-- `STATUS.CODE <- code(<Outcome>)`; RSP_VALID and CFG_VALID stay. -/
def State.raise (s : State) (c : Code) : State :=
  { s with status := { s.status with code := c.num } }

/-- The value handed to the host on the command port (43_host_access.md rule R220). -/
def State.give (s : State) (v : Option RetVal) : State := { s with ret := v }

/-- The end of a command that returns nothing and leaves the outcome `c`. -/
def State.endWith (s : State) (c : Code) : State := (s.raise c).give none

/-- The whole effect of an illegal or out-of-contract command: STATUS.CODE is 15, the returned value 0,
nothing else changes (30_encoding.md rules R120, R121). -/
def illegalCommand (s : State) : State := (s.raise .illegalCommand).give (some 0)

/-! ### The transport port -/

/-- The block makes a transport call: one more in the record (20_memory.md rule R71). -/
def State.call (s : State) (c : TransportCall) : State := { s with calls := s.calls ++ [c] }

/-- The transport's answers to the RDREGS now running: the next scripted ones, free ones where none is
scripted (20_memory.md rule R75, 93_implementation_defined.md V1). -/
def State.nextAnswers (s : State) : Answers :=
  match s.answers with
  | a :: _ => a
  | [] => ⟨Config.freeFlushOk s.draws, Config.freeWriteOk s.draws, Config.freeRx s.draws⟩

/-- Those answers are used up. -/
def State.drawn (s : State) : State :=
  match s.answers with
  | _ :: rest => { s with answers := rest }
  | [] => { s with draws := s.draws + 1 }

/-- `Transport.read(max_bytes)`: never more than `max_bytes` bytes (20_memory.md rule R75). -/
def Answers.read (a : Answers) (maxBytes : Nat) : List Byte := a.rx.take maxBytes

/-! ### Reset -/

/-- The reset event: the block's state takes its reset values; parameters, the host's further inputs and
the transport stay, and no transport call is made (70_reset_and_hazards.md rules R260, R261). -/
def resetBlock (s : State) : State :=
  { State.reset with
    par := s.par, port := s.port, answers := s.answers, draws := s.draws, calls := s.calls }

/-- A command cut by reset, `s` before it and `t` after it run whole: reset just after the command, but of
the transport calls it made only the first `made` have gone out (70_reset_and_hazards.md rule R260). -/
def resetCutting (made : Nat) (s t : State) : State :=
  resetBlock { t with calls := s.calls ++ (t.calls.drop s.calls.length).take made }

/-- The host presents one more input, ahead of those still to come. -/
def State.present (s : State) (h : HostInput) : State := { s with port := h :: s.port }

end Sys2Proof.Machine
end

