-- ==== Sys2Proof/Machine/Checksum.lean ====
section
/-! DEFINITION. The checksum commands CRC16 and LRC (40_checksum.md). -/

namespace Sys2Proof.Machine

/-- One inner iteration: the low bit is tested before the logical right shift, and an odd accumulator is
XORed with the reflected mask after it (40_checksum.md rules R130, R134, its G2). -/
def crcShift (acc : BitVec 16) : BitVec 16 :=
  if acc.getLsbD 0 then (acc >>> 1) ^^^ 0xA001#16 else acc >>> 1

/-- `n` inner iterations. -/
def crcShifts : Nat → BitVec 16 → BitVec 16
  | 0, acc => acc
  | n + 1, acc => crcShifts n (crcShift acc)

/-- The body of the outer loop: the byte enters bits 7:0, then eight iterations (40_checksum.md rule R130). -/
def crcByte (acc : BitVec 16) (b : Byte) : BitVec 16 := crcShifts 8 (acc ^^^ b.setWidth 16)

/-- The loop over the bytes in index order, from a given accumulator (40_checksum.md rule R133 (b)). -/
def crcFrom (acc : BitVec 16) : List Byte → BitVec 16
  | [] => acc
  | b :: s => crcFrom (crcByte acc b) s

/-- `crc16_value(s)`: initial value 0xFFFF, no final inversion (40_checksum.md rules R130, R133). -/
def crc16Value (s : List Byte) : BitVec 16 := crcFrom 0xFFFF#16 s

/-- `crc16(s)`: packed low byte first (40_checksum.md rule R131). -/
def crc16 (s : List Byte) : List Byte := le16 (crc16Value s)

/-- The running 8-bit sum (40_checksum.md rule R135). -/
def lrcSum (sum : Byte) : List Byte → Byte
  | [] => sum
  | b :: s => lrcSum (sum + b) s

/-- `lrc(s)`: `(256 - sum) mod 256` (40_checksum.md rule R135). -/
def lrc (s : List Byte) : Byte := - lrcSum 0 s

/-- Command CRC16 (40_checksum.md rule R132). -/
def execCrc16 (s : State) : Host.Outcome State Fault Refusal :=
  let bytes := s.buf .inb
  .next (({ s with crc := .write (crc16Value bytes) }.setBuf .out (crc16 bytes)).endWith .ok)

/-- Command LRC (40_checksum.md rule R136). -/
def execLrc (s : State) : Host.Outcome State Fault Refusal :=
  let bytes := s.buf .inb
  .next (({ s with lrcr := .write (lrc bytes) }.setBuf .out [lrc bytes]).endWith .ok)

end Sys2Proof.Machine
end

