-- ==== Sys2Proof/Machine/Codec.lean ====
section
/-! DEFINITION. The frame codec commands BUILD.RTU, BUILD.ASCII, PARSE.RTU and PARSE.ASCII
(41_frame_codec.md), over the frame layouts of 30_encoding.md Part A. -/

namespace Sys2Proof.Machine

/-- The request body (30_encoding.md rule R92). -/
def body (slave func : BitVec 8) (start qty : BitVec 16) (extra : List Byte) : List Byte :=
  [slave, func] ++ be16 start ++ be16 qty ++ extra

/-- The RTU frame of a body or payload: the CRC appended (30_encoding.md rules R93, R94). -/
def rtuFrame (b : List Byte) : List Byte := b ++ crc16 b

/-- The ASCII frame of a body or payload: the envelope with the LRC of its binary bytes
(30_encoding.md rules R95, R96, 41_frame_codec.md rule R153). -/
def asciiFrame (b : List Byte) : List Byte :=
  [colon] ++ hex b ++ hex2 (lrc b) ++ [carriageReturn, lineFeed]

/-- `build_rtu` (41_frame_codec.md rule R150). -/
def buildRtu (slave func : BitVec 8) (start qty : BitVec 16) (extra : List Byte) : List Byte :=
  rtuFrame (body slave func start qty extra)

/-- `build_ascii` (41_frame_codec.md rule R152). -/
def buildAscii (slave func : BitVec 8) (start qty : BitVec 16) (extra : List Byte) : List Byte :=
  asciiFrame (body slave func start qty extra)

/-- `parse_rtu`: the length check, then the CRC check, and no third (41_frame_codec.md rule R155). -/
def parseRtu (raw : List Byte) : Except Code (List Byte) :=
  if raw.length < 3 then .error .frameTooShort
  else if crc16 (slice raw 0 (raw.length - 2)) ≠ slice raw (raw.length - 2) raw.length then
    .error .checksumMismatch
  else .ok (slice raw 0 (raw.length - 2))

/-- `parse_ascii`: the envelope, then the hex text, then the LRC (41_frame_codec.md rule R160). -/
def parseAscii (lowerOk : Bool) (raw : List Byte) : Except Code (List Byte) :=
  if raw[0]? ≠ some colon then .error .framingError
  else if raw.length < 2 ∨ raw[raw.length - 2]? ≠ some carriageReturn ∨
      raw[raw.length - 1]? ≠ some lineFeed then .error .framingError
  else
    match unhex lowerOk (slice raw 1 (raw.length - 2)) with
    | none => .error .framingError
    | some dec =>
      match dec.getLast? with
      | none => .error .framingError
      | some rxLrc =>
        if lrc dec.dropLast ≠ rxLrc then .error .checksumMismatch else .ok dec.dropLast

/-- What a parse command leaves: the payload and OK, or an emptied OUTBUF and the outcome
(41_frame_codec.md rules R156, R161, R166). -/
def State.endParse (s : State) (r : Except Code (List Byte)) : State :=
  match r with
  | .ok payload => (s.setBuf .out payload).endWith .ok
  | .error c => (s.setBuf .out []).endWith c

/-- Command BUILD.RTU (41_frame_codec.md rule R151). -/
def execBuildRtu (slave func : BitVec 8) (start qty : BitVec 16) (s : State) :
    Host.Outcome State Fault Refusal :=
  .next ((s.setBuf .out (buildRtu slave func start qty (s.buf .inb))).endWith .ok)

/-- Command BUILD.ASCII (41_frame_codec.md rule R154). -/
def execBuildAscii (slave func : BitVec 8) (start qty : BitVec 16) (s : State) :
    Host.Outcome State Fault Refusal :=
  .next ((s.setBuf .out (buildAscii slave func start qty (s.buf .inb))).endWith .ok)

/-- Command PARSE.RTU (41_frame_codec.md rule R156). -/
def execParseRtu (s : State) : Host.Outcome State Fault Refusal :=
  .next (s.endParse (parseRtu (s.buf .inb)))

/-- Command PARSE.ASCII (41_frame_codec.md rule R161). -/
def execParseAscii (s : State) : Host.Outcome State Fault Refusal :=
  .next (s.endParse (parseAscii s.par.hexLowerOk (s.buf .inb)))

end Sys2Proof.Machine
end

