-- ==== Sys2Proof/Machine/Framer.lean ====
section
/-! DEFINITION. The register-read framer commands RDREGS and REGSLICE (42_read_framer.md). -/

namespace Sys2Proof.Machine

/-- The read length: `5 + 2*qty` in RTU, `ASCII_RX_MAX` in ASCII, never wrapped
(42_read_framer.md rules R181, R184). -/
def readLength (p : Params) (mode : Mode) (qty : BitVec 16) : Nat :=
  match mode with
  | .rtu => 5 + 2 * qty.toNat
  | .ascii => p.asciiRxMax

/-- The function code of every request of the framer (00_scope.md rule R2, 42_read_framer.md rule R180). -/
def readFunction : BitVec 8 := 3

/-- The request frame of step T2, with no extra data (42_read_framer.md rule R181). -/
def requestFrame (c : Cfg) (start qty : BitVec 16) : List Byte :=
  match c.mode with
  | .rtu => buildRtu c.slave readFunction start qty []
  | .ascii => buildAscii c.slave readFunction start qty []

/-- The parser of the configured encoding (42_read_framer.md rule R181, T4). -/
def parseAs (lowerOk : Bool) (mode : Mode) (raw : List Byte) : Except Code (List Byte) :=
  match mode with
  | .rtu => parseRtu raw
  | .ascii => parseAscii lowerOk raw

/-- Step T4 up to the payload: NoResponse, ShortResponse (RTU only), the parser's outcome,
PayloadTooShort, in this order (42_read_framer.md rules R185 to R188, 60_exceptions.md rule R235). -/
def classify (lowerOk : Bool) (mode : Mode) (qty : BitVec 16) (rx : List Byte) :
    Except Code (List Byte) :=
  if rx.length = 0 then .error .noResponse
  else if mode = .rtu ∧ rx.length < 5 + 2 * qty.toNat then .error .shortResponse
  else
    match parseAs lowerOk mode rx with
    | .error c => .error c
    | .ok payload => if payload.length < 3 then .error .payloadTooShort else .ok payload

/-- `B = payload[2]`, the byteCount (30_encoding.md rule R97); asked only of payloads of 3 bytes or more. -/
def byteCount (payload : List Byte) : Byte := payload.getD 2 0

/-- `registerBytes = payload[3 : 3+B]`, clamped (30_encoding.md rule R97). -/
def registerBytes (payload : List Byte) : List Byte := slice payload 3 (3 + (byteCount payload).toNat)

/-- Step T0's writes (42_read_framer.md rules R181, R182). -/
def State.prepareRead (s : State) (start qty : BitVec 16) : State :=
  { s with
    status := { s.status with rspValid := false }
    rspStart := .write start
    rspQty := .write qty
    bytecnt := .write 0
    rblen := .write 0
    rdlen := .write (BitVec.ofNat 32 (readLength s.par s.cfg.mode qty))
    mem := { s.mem with tx := [], rx := [], pay := [] } }

/-- Step T4's writes on success, before the outcome (42_read_framer.md rule R190). -/
def State.deliver (s : State) (payload : List Byte) : State :=
  { s.setBuf .pay payload with
    bytecnt := .write (byteCount payload)
    rblen := .write (BitVec.ofNat 8 (registerBytes payload).length)
    status := { s.status with rspValid := true } }

/-- Step T4 on the bytes now in RXBUF (42_read_framer.md rule R181). -/
def State.classified (s : State) (qty : BitVec 16) : State :=
  match classify s.par.hexLowerOk s.cfg.mode qty (s.buf .rx) with
  | .error c => s.endWith c
  | .ok payload => (s.deliver payload).endWith .ok

/-- Step T3: one read call, its bytes into RXBUF; then T4 (42_read_framer.md rules R181, R184). -/
def State.readStep (s : State) (a : Answers) (qty : BitVec 16) : State :=
  let max := readLength s.par s.cfg.mode qty
  (((s.call (.read max)).setBuf .rx (a.read max))).classified qty

/-- Step T2: the frame into TXBUF and to the transport, a `false` ending the command; then T3
(42_read_framer.md rules R181, R183). -/
def State.writeStep (s : State) (a : Answers) (start qty : BitVec 16) : State :=
  let t := (s.setBuf .tx (requestFrame s.cfg start qty)).call (.write (requestFrame s.cfg start qty))
  if a.writeOk then t.readStep a qty else t.endWith .transportUnavailable

/-- Step T1: the flush, a `false` ending the command; then T2 (42_read_framer.md rules R181, R183). -/
def State.flushStep (s : State) (a : Answers) (start qty : BitVec 16) : State :=
  let t := s.call .resetInputBuffer
  if a.flushOk then t.writeStep a start qty else t.endWith .transportUnavailable

/-- Command RDREGS (42_read_framer.md rules R180, R181): out of contract before the first SETCFG, else
the micro-sequence T0 to T4 on the transport's answers. -/
def execRdregs (start qty : BitVec 16) (s : State) : Host.Outcome State Fault Refusal :=
  if s.status.cfgValid then
    .next ((s.prepareRead start qty).drawn.flushStep s.nextAnswers start qty)
  else .next (illegalCommand s)

/-- The number of bytes of register `i`'s slice, from RBLEN (42_read_framer.md rule R195). -/
def sliceLength (rblen i : Nat) : Nat :=
  if 2 * i + 2 ≤ rblen then 2 else if rblen = 2 * i + 1 then 1 else 0

/-- Command REGSLICE (42_read_framer.md rule R195). -/
def execRegslice (index : BitVec 32) (s : State) : Host.Outcome State Fault Refusal :=
  let i := index.toNat
  if s.status.rspValid = false ∨ s.rspQty.value.toNat ≤ i then .next (illegalCommand s)
  else
    let n := sliceLength s.rblen.value.toNat i
    .next ({ s with
      regaddr := .write (BitVec.ofNat 17 (s.rspStart.value.toNat + i))
      reglen := .write (BitVec.ofNat 2 n)
      regb0 := .write (if 1 ≤ n then (s.buf .pay).getD (3 + 2 * i) 0 else 0)
      regb1 := .write (if n = 2 then (s.buf .pay).getD (4 + 2 * i) 0 else 0) }.endWith .ok)

end Sys2Proof.Machine
end

