-- ==== Sys2Proof/Machine/Operands.lean ====
section
/-! DEFINITION. Operand forms: the space numbers of LDB, the register numbers of RDR, and the value of a
register as the host reads it (20_memory.md rule R60, 10_state.md rules R24 to R26). -/

namespace Sys2Proof.Machine

/-- The space number of LDB's operand; 5, 6 and 7 name none (43_host_access.md rule R215). -/
def Space.ofNum (n : BitVec 3) : Option Space :=
  [Space.inb, .out, .tx, .rx, .pay][n.toNat]?

/-- The register map in the order of its numbers (10_state.md rule R24). -/
def Reg.all : List Reg :=
  [.status, .cfg, .inlen, .outlen, .txlen, .rxlen, .paylen, .crc, .lrcr, .rdlen, .rspStart, .rspQty,
   .bytecnt, .rblen, .regaddr, .reglen, .regb0, .regb1]

/-- The register number of RDR's operand; 18 to 31 name none (43_host_access.md rule R218). -/
def Reg.ofNum (n : BitVec 5) : Option Reg := Reg.all[n.toNat]?

/-- A buffer's length register (10_state.md rules R24, R32). -/
def State.len (s : State) (sp : Space) : RetVal := BitVec.ofNat 32 (s.buf sp).length

/-- `zext_32(x[n])`, none where the register is unwritten (10_state.md rules R24 to R26). -/
def State.readReg (s : State) : Reg → Option RetVal
  | .status => some s.status.word
  | .cfg => if s.status.cfgValid then some s.cfg.word else none
  | .inlen => some (s.len .inb)
  | .outlen => some (s.len .out)
  | .txlen => some (s.len .tx)
  | .rxlen => some (s.len .rx)
  | .paylen => some (s.len .pay)
  | .crc => s.crc.read
  | .lrcr => s.lrcr.read
  | .rdlen => s.rdlen.read
  | .rspStart => s.rspStart.read
  | .rspQty => s.rspQty.read
  | .bytecnt => s.bytecnt.read
  | .rblen => s.rblen.read
  | .regaddr => s.regaddr.read
  | .reglen => s.reglen.read
  | .regb0 => s.regb0.read
  | .regb1 => s.regb1.read

end Sys2Proof.Machine
end

