-- ==== Sys2Proof/Machine/HostAccess.lean ====
section
/-! DEFINITION. The host access commands SETCFG, PUSH, CLRIN, LDB and RDR (43_host_access.md), and the
pseudo-instructions of 30_encoding.md rule R126. -/

namespace Sys2Proof.Machine

/-- Command SETCFG (43_host_access.md rule R210). -/
def execSetcfg (mode : Mode) (slave : BitVec 8) (s : State) : Host.Outcome State Fault Refusal :=
  .next ({ s with cfg := ⟨mode, slave⟩, status := { s.status with cfgValid := true } }.give none)

/-- Command PUSH (43_host_access.md rule R212): out of contract when INLEN = IN_MAX. -/
def execPush (byte : Byte) (s : State) : Host.Outcome State Fault Refusal :=
  if (s.buf .inb).length = s.par.inMax then .next (illegalCommand s)
  else .next ((s.append byte).give none)

/-- Command CLRIN (43_host_access.md rule R214). -/
def execClrin (s : State) : Host.Outcome State Fault Refusal :=
  .next ((s.setBuf .inb []).give none)

/-- Command LDB (43_host_access.md rule R215). -/
def execLdb (space : BitVec 3) (index : BitVec 32) (s : State) : Host.Outcome State Fault Refusal :=
  match Space.ofNum space with
  | none => .next (illegalCommand s)
  | some sp =>
    match s.readByte sp index.toNat with
    | none => .next (illegalCommand s)
    | some b => .next (s.give (some (b.setWidth 32)))

/-- Command RDR (43_host_access.md rule R218). -/
def execRdr (n : BitVec 5) (s : State) : Host.Outcome State Fault Refusal :=
  match Reg.ofNum n with
  | none => .next (illegalCommand s)
  | some r =>
    match s.readReg r with
    | none => .next (illegalCommand s)
    | some v => .next (s.give (some v))

/-- `LOAD b0 ... bk`: CLRIN, then one PUSH per byte (30_encoding.md rule R126). -/
def pseudoLoad (bytes : List Byte) : List Instr := .clrin :: bytes.map .push

/-- `RDSTATUS`: RDR 0 (30_encoding.md rule R126). -/
def pseudoRdstatus : List Instr := [.rdr 0]

/-- `RDHOLD start, qty`: RDREGS start, qty (30_encoding.md rule R126). -/
def pseudoRdhold (start qty : BitVec 16) : List Instr := [.rdregs start qty]

end Sys2Proof.Machine
end

