-- ==== Sys2Proof/Machine/Dispatch.lean ====
section
/-! DEFINITION. The meaning of every command, one arm each (30_encoding.md rule R110). -/

namespace Sys2Proof.Machine

def exec (i : Instr) (s : State) : Host.Outcome State Fault Refusal :=
  match i with
  | .crc16 => Sys2Proof.Machine.execCrc16 s
  | .lrc => Sys2Proof.Machine.execLrc s
  | .buildRtu slave func start qty => Sys2Proof.Machine.execBuildRtu slave func start qty s
  | .buildAscii slave func start qty => Sys2Proof.Machine.execBuildAscii slave func start qty s
  | .parseRtu => Sys2Proof.Machine.execParseRtu s
  | .parseAscii => Sys2Proof.Machine.execParseAscii s
  | .rdregs start qty => Sys2Proof.Machine.execRdregs start qty s
  | .regslice index => Sys2Proof.Machine.execRegslice index s
  | .push byte => Sys2Proof.Machine.execPush byte s
  | .clrin => Sys2Proof.Machine.execClrin s
  | .ldb space index => Sys2Proof.Machine.execLdb space index s
  | .rdr n => Sys2Proof.Machine.execRdr n s
  | .setcfg mode slave => Sys2Proof.Machine.execSetcfg mode slave s

end Sys2Proof.Machine
end

