-- ==== Sys2Proof/Machine/Step.lean ====
section
/-! DEFINITION. One step of the machine: the next input on the command port, executed to completion
(00_scope.md rule R6, 10_state.md rule R27). -/

namespace Sys2Proof.Machine

/-- One command word: the command it is, or the illegal command (30_encoding.md rules R114, R120, R122). -/
def runWord (w : Word) (s : State) : Host.Outcome State Fault Refusal :=
  match decode w with
  | .ok i => exec i s
  | .error _ => .next (illegalCommand s)

/-- The next input. With none to come the block is idle and holds its state (60_exceptions.md rule R250). -/
def step (s : State) : Host.Outcome State Fault Refusal :=
  match s.port with
  | [] => .next s
  | .command w :: rest => runWord w { s with port := rest }
  | .reset :: rest => .next (resetBlock { s with port := rest })
  | .commandCutByReset w made :: rest =>
    match runWord w { s with port := rest } with
    | .next t => .next (resetCutting made { s with port := rest } t)
    | .fault r => .fault r
    | .refused r => .refused r

/-- The host issues the word next, ahead of anything else on the port. -/
def State.withFetchWord (s : State) (nbits w : Nat) : State :=
  s.present (.command (tableWord nbits w))

end Sys2Proof.Machine
end

