-- ==== Sys2Proof/Safety.lean ====
section
/-! DEFINITION. The terms in which claims about the block are stated: when a command is out of contract,
which registers and buffers a command may write, what a frame keeps, and the invariant of every run. -/

namespace Sys2Proof.Machine

/-! ### Contract (30_encoding.md rules R120, R121) -/

/-- The written flag `W[n]`; STATUS and the length registers are always written (10_state.md rule R26). -/
def State.writtenFlag (s : State) : Reg → Bool
  | .status => true
  | .cfg => s.status.cfgValid
  | .inlen => true
  | .outlen => true
  | .txlen => true
  | .rxlen => true
  | .paylen => true
  | .crc => s.crc.written
  | .lrcr => s.lrcr.written
  | .rdlen => s.rdlen.written
  | .rspStart => s.rspStart.written
  | .rspQty => s.rspQty.written
  | .bytecnt => s.bytecnt.written
  | .rblen => s.rblen.written
  | .regaddr => s.regaddr.written
  | .reglen => s.reglen.written
  | .regb0 => s.regb0.written
  | .regb1 => s.regb1.written

/-- The list of 30_encoding.md rule R121, and the ill-formed LDB and RDR of rule R120. -/
def outOfContract (i : Instr) (s : State) : Bool :=
  match i with
  | .push _ => decide ((s.buf .inb).length = s.par.inMax)
  | .ldb space index =>
    match Space.ofNum space with
    | some sp => decide ((s.buf sp).length ≤ index.toNat)
    | none => true
  | .rdr n =>
    match Reg.ofNum n with
    | some r => !s.writtenFlag r
    | none => true
  | .rdregs _ _ => !s.status.cfgValid
  | .regslice index => !s.status.rspValid || decide (s.rspQty.value.toNat ≤ index.toNat)
  | _ => false

/-- The commands that leave STATUS.CODE unchanged when in contract (10_state.md rule R22). -/
def movesDataOnly (i : Instr) : Bool :=
  match i with
  | .setcfg _ _ => true
  | .push _ => true
  | .clrin => true
  | .ldb _ _ => true
  | .rdr _ => true
  | _ => false

/-! ### Frames -/

/-- Every register outside the list reads as before (10_state.md rule R24). -/
def regsKept (except : List Reg) (s t : State) : Prop :=
  ∀ r, r ∉ except → t.readReg r = s.readReg r

/-- Every byte of every buffer outside the list reads as before, at every index. -/
def bytesKept (except : List Space) (s t : State) : Prop :=
  ∀ sp k, sp ∉ except → t.readByte sp k = s.readByte sp k

/-- RSP_VALID and CFG_VALID are as before. -/
def validBitsKept (s t : State) : Prop :=
  t.status.rspValid = s.status.rspValid ∧ t.status.cfgValid = s.status.cfgValid

/-- No transport call was made and no transport answer used. -/
def transportKept (s t : State) : Prop :=
  t.calls = s.calls ∧ t.answers = s.answers ∧ t.draws = s.draws

/-- The parameters and the host's further inputs are as before. -/
def hostKept (s t : State) : Prop := t.par = s.par ∧ t.port = s.port

/-- The whole effect of an illegal command (30_encoding.md rule R120). -/
def illegalEffect (s t : State) : Prop :=
  t.status.code = 15 ∧ validBitsKept s t ∧ t.ret = some 0 ∧
  regsKept [.status] s t ∧ bytesKept [] s t ∧ transportKept s t ∧ hostKept s t

/-! ### Who writes what -/

/-- The buffers a command may write (10_state.md rule R33). -/
def writesSpaces : Instr → List Space
  | .crc16 => [.out]
  | .lrc => [.out]
  | .buildRtu _ _ _ _ => [.out]
  | .buildAscii _ _ _ _ => [.out]
  | .parseRtu => [.out]
  | .parseAscii => [.out]
  | .rdregs _ _ => [.tx, .rx, .pay]
  | .regslice _ => []
  | .push _ => [.inb]
  | .clrin => [.inb]
  | .ldb _ _ => []
  | .rdr _ => []
  | .setcfg _ _ => []

/-- The registers other than STATUS that a command may write (10_state.md rule R24, column "written by"). -/
def writesRegs : Instr → List Reg
  | .crc16 => [.crc, .outlen]
  | .lrc => [.lrcr, .outlen]
  | .buildRtu _ _ _ _ => [.outlen]
  | .buildAscii _ _ _ _ => [.outlen]
  | .parseRtu => [.outlen]
  | .parseAscii => [.outlen]
  | .rdregs _ _ => [.txlen, .rxlen, .paylen, .rdlen, .rspStart, .rspQty, .bytecnt, .rblen]
  | .regslice _ => [.regaddr, .reglen, .regb0, .regb1]
  | .push _ => [.inlen]
  | .clrin => [.inlen]
  | .ldb _ _ => []
  | .rdr _ => []
  | .setcfg _ _ => [.cfg]

/-! ### The invariant of every run -/

/-- A register whose flag is clear holds the value it has at reset (notes/assumptions/2.md). -/
def Latch.blank {w : Nat} (r : Latch w) : Prop := r.written = false → r.value = 0

/-- What every step keeps, whatever the parameters and the transport's answers. -/
structure State.Inv (s : State) : Prop where
  /-- 00_scope.md rule R7 -/
  params : s.par.legal = true
  /-- 10_state.md rule R25 -/
  buffers : s.mem.wf s.par = true
  /-- 60_exceptions.md rule R230: codes 8 to 14 are never written -/
  code : s.status.code ∈ Code.all.map Code.num
  /-- 10_state.md rule R25: "RXLEN is at most RDLEN" -/
  rxlen : s.mem.rx.length ≤ s.rdlen.value.toNat
  /-- 10_state.md rule R25 -/
  rdlen : s.rdlen.value.toNat ≤ max 131075 s.par.asciiRxMax
  /-- 42_read_framer.md rule R190 -/
  validResponse : s.status.rspValid = true → 3 ≤ s.mem.pay.length ∧
    s.bytecnt.value = byteCount s.mem.pay ∧ s.rblen.value.toNat = (registerBytes s.mem.pay).length
  /-- 10_state.md rule R30 -/
  noResponse : s.status.rspValid = false → s.mem.pay = [] ∧ s.bytecnt.value = 0 ∧ s.rblen.value = 0
  /-- 42_read_framer.md rules R181, R182: a response is framed only by an RDREGS with CFG written -/
  validWritten : s.status.rspValid = true → s.status.cfgValid = true ∧ s.rdlen.written = true
  /-- 42_read_framer.md rule R181, T0: registers 9 to 13 are written together -/
  framerFlags : s.rspStart.written = s.rdlen.written ∧ s.rspQty.written = s.rdlen.written ∧
    s.bytecnt.written = s.rdlen.written ∧ s.rblen.written = s.rdlen.written
  /-- 42_read_framer.md rule R195: registers 14 to 17 are written together -/
  sliceFlags : s.reglen.written = s.regaddr.written ∧ s.regb0.written = s.regaddr.written ∧
    s.regb1.written = s.regaddr.written
  /-- 10_state.md rule R24: REGLEN is 0, 1 or 2, and a missing byte reads 0 -/
  sliceZeros : s.reglen.value.toNat ≤ 2 ∧ (s.reglen.value.toNat = 0 → s.regb0.value = 0) ∧
    (s.reglen.value.toNat < 2 → s.regb1.value = 0)
  /-- 10_state.md rule R25 -/
  regaddr : s.regaddr.value.toNat ≤ 131069
  /-- notes/assumptions/2.md -/
  blanks : (s.status.cfgValid = false → s.cfg = ⟨.rtu, 0⟩) ∧ s.crc.blank ∧ s.lrcr.blank ∧
    s.rdlen.blank ∧ s.rspStart.blank ∧ s.rspQty.blank ∧ s.bytecnt.blank ∧ s.rblen.blank ∧
    s.regaddr.blank ∧ s.reglen.blank ∧ s.regb0.blank ∧ s.regb1.blank

end Sys2Proof.Machine
end

