-- ==== Sys2Proof/Certificates/Slice0/Obligations.lean ====
section
/-! DEFINITION. The statements for the provers. Each docstring names the rule of spec/ it formalises. -/

open Sys2Proof Sys2Proof.Machine

/-! ## Encoding -/

/-- 30_encoding.md rules R111 to R113: no bit of an operand is dropped. -/
def Obligations.DecodeOfEncodeIsTheCommand : Prop :=
  ∀ i : Instr, WellFormed i = true → decode (encode i) = .ok i

/-- 30_encoding.md rules R111 to R114: a word that is a command is the encoding of that command, so each
word has at most one meaning and no stray bit is ignored. -/
def Obligations.EncodeOfDecodeIsTheWord : Prop :=
  ∀ (w : Word) (i : Instr), decode w = .ok i → encode i = w ∧ WellFormed i = true

/-- 30_encoding.md rule R114. -/
def Obligations.DecoderAgreesWithMatchMaskTable : Prop :=
  ∀ (w : Word) (o : Op),
    (∃ i, decode w = .ok i ∧ i.op = o) ↔ (w &&& o.mask = o.matchBits ∧ o.constraint w = true)

/-- Sample words of 95_test_vectors.md section 5.1, one or more per format. -/
def Obligations.DecodeOfSampleWords : Prop :=
  decode 0x0100000000000000#64 = .ok .crc16 ∧
  decode 0x0200000000000000#64 = .ok .lrc ∧
  decode 0x10010303E8000300#64 = .ok (.buildRtu 1 3 1000 3) ∧
  decode 0x11010303E8000300#64 = .ok (.buildAscii 1 3 1000 3) ∧
  decode 0x2000000000000000#64 = .ok .parseRtu ∧
  decode 0x2100000000000000#64 = .ok .parseAscii ∧
  decode 0x300000041A000200#64 = .ok (.rdregs 1050 2) ∧
  decode 0x3100000000000300#64 = .ok (.regslice 3) ∧
  decode 0x40E8000000000000#64 = .ok (.push 0xE8) ∧
  decode 0x4100000000000000#64 = .ok .clrin ∧
  decode 0x4201000001117000#64 = .ok (.ldb 1 70000) ∧
  decode 0x4311000000000000#64 = .ok (.rdr 17) ∧
  decode 0x5001110000000000#64 = .ok (.setcfg .ascii 17)

/-! ## The step, illegal and out-of-contract commands, reset -/

/-- A command word on the port runs as the command it decodes to; with nothing on the port the block holds
its state (60_exceptions.md rule R250; the port as a list is notes/assumptions/3.md). -/
def Obligations.StepRunsTheDecodedCommand : Prop :=
  (∀ (s : State) (w : Word) (rest : List HostInput) (i : Instr), s.port = .command w :: rest →
    decode w = .ok i → step s = exec i { s with port := rest }) ∧
  (∀ (s : State) (nbits w : Nat) (i : Instr), decodeTableWord nbits w = some i →
    step (s.withFetchWord nbits w) = exec i s) ∧
  (∀ s : State, s.port = [] → step s = .next s)

/-- 30_encoding.md rule R120, for every word that is no row's command under rule R114; rule R121 gives the
returned value as 0 (notes/assumptions/14.md). -/
def Obligations.IllegalWordOnlySetsCode15 : Prop :=
  ∀ (s : State) (w : Word) (rest : List HostInput), s.port = .command w :: rest →
    (∀ o : Op, ¬ (w &&& o.mask = o.matchBits ∧ o.constraint w = true)) →
    ∃ t, step s = .next t ∧ illegalEffect { s with port := rest } t

/-- 30_encoding.md rule R121: the complete list. Off the list a command completes as itself: it leaves an
outcome below 15, or (10_state.md rule R22) leaves STATUS.CODE alone. -/
def Obligations.OutOfContractListIsComplete : Prop :=
  ∀ (i : Instr) (s : State), WellFormed i = true →
    (outOfContract i s = true → ∃ t, exec i s = .next t ∧ illegalEffect s t) ∧
    (outOfContract i s = false → ∃ t, exec i s = .next t ∧
      if movesDataOnly i then t.status.code = s.status.code else t.status.code ≠ 15)

/-- 70_reset_and_hazards.md rule R281. -/
def Obligations.EveryRunReachesADefinedEndState : Prop :=
  ∀ (n : Nat) (s : State), ∃ t, Sys2Proof.core.run n s = .next t

/-- 70_reset_and_hazards.md rules R260 and R261, with the reset values of 10_state.md rule R40 as the host can
read them: at power-on, on reset between two commands, and on reset during a command, which makes any prefix
of the transport calls that command makes whole. -/
def Obligations.ResetEventGivesTheResetState : Prop :=
  let atReset (t : State) : Prop := (∀ sp, t.buf sp = []) ∧ ∀ r, t.readReg r =
    if r ∈ [Reg.status, .inlen, .outlen, .txlen, .rxlen, .paylen] then some 0 else none
  atReset State.reset ∧
  ∀ (s : State) (rest : List HostInput),
    (s.port = .reset :: rest → ∃ t, step s = .next t ∧ atReset t ∧ t.calls = s.calls ∧
      t.answers = s.answers ∧ t.par = s.par ∧ t.port = rest) ∧
    (∀ (w : Word) (made : Nat), s.port = .commandCutByReset w made :: rest →
      ∃ t u new, step s = .next t ∧ step { s with port := .command w :: rest } = .next u ∧
        u.calls = s.calls ++ new ∧ t.calls = s.calls ++ new.take made ∧ new.length ≤ 3 ∧
        atReset t ∧ t.par = s.par ∧ t.port = rest)

/-! ## Checksum family -/

/-- 40_checksum.md rule R132: the word, the result, the frame, the empty input and the rule's example. -/
def Obligations.Crc16CommandResultAndFrame : Prop :=
  decode 0x0100000000000000#64 = .ok .crc16 ∧
  (∀ s : State, ∃ t, exec .crc16 s = .next t ∧
    t.readReg .crc = some ((crc16Value (s.buf .inb)).setWidth 32) ∧
    t.buf .out = [(crc16Value (s.buf .inb)).extractLsb' 0 8, (crc16Value (s.buf .inb)).extractLsb' 8 8] ∧
    t.readReg .outlen = some 2 ∧ t.status.code = 0 ∧ t.ret = none ∧ validBitsKept s t ∧
    regsKept [.status, .crc, .outlen] s t ∧ bytesKept [.out] s t ∧ transportKept s t ∧ hostKept s t) ∧
  crc16Value [] = 0xFFFF#16 ∧ crc16Value [0x01, 0x03, 0x00, 0x00, 0x00, 0x0A] = 0xCDC5#16

/-- 40_checksum.md rule R136: the word, the result, the frame, the corner cases and the rule's example. -/
def Obligations.LrcCommandResultAndFrame : Prop :=
  decode 0x0200000000000000#64 = .ok .lrc ∧
  (∀ s : State, ∃ t, exec .lrc s = .next t ∧
    t.readReg .lrcr = some ((lrc (s.buf .inb)).setWidth 32) ∧ t.buf .out = [lrc (s.buf .inb)] ∧
    t.readReg .outlen = some 1 ∧ t.status.code = 0 ∧ t.ret = none ∧ validBitsKept s t ∧
    regsKept [.status, .lrcr, .outlen] s t ∧ bytesKept [.out] s t ∧ transportKept s t ∧ hostKept s t) ∧
  lrc [] = 0 ∧ lrc [0x01, 0xFF] = 0 ∧ lrc [0x80, 0x80] = 0 ∧ lrc [0x80] = 0x80 ∧ lrc [0xFF] = 0x01 ∧
  lrc [0x01, 0x03, 0x00, 0x00, 0x00, 0x0A] = 0xF2

/-- 40_checksum.md rule R133 (a) to (d): the empty sequence, streaming, the zero residue of a sequence with
its own CRC appended, and the trailing bytes of a built frame. -/
def Obligations.CrcStreamsAndLeavesNoResidue : Prop :=
  crc16Value [] = 0xFFFF#16 ∧
  (∀ s t : List Byte, crc16Value (s ++ t) = crcFrom (crc16Value s) t) ∧
  (∀ s : List Byte, crc16Value (s ++ crc16 s) = 0) ∧
  (∀ (slave func : BitVec 8) (start qty : BitVec 16) (extra : List Byte),
    let f := buildRtu slave func start qty extra
    f.drop (f.length - 2) = crc16 (f.take (f.length - 2)))

/-- 40_checksum.md rule R134: bit by bit what one inner iteration does, and the rule's worked trace. -/
def Obligations.CrcIterationShiftsAndInvertsThreeBits : Prop :=
  (∀ (acc : BitVec 16) (k : Nat), (crcShift acc).getLsbD k =
    (acc.getLsbD (k + 1) ^^ (acc.getLsbD 0 && (k == 15 || k == 13 || k == 0)))) ∧
  (List.range 9).map (fun n => crcShifts n 0xFFFE#16) =
    [0xFFFE#16, 0x7FFF#16, 0x9FFE#16, 0x4FFF#16, 0x87FE#16, 0x43FF#16, 0x81FE#16, 0x40FF#16, 0x807E#16] ∧
  crc16Value [0x01] = 0x807E#16 ∧ crc16 [0x01] = [0x7E, 0x80]

/-- 40_checksum.md rule R135: the LRC is the negated sum of the bytes on unbounded integers, truncated
once; sum and LRC together are 0 mod 256; the order of the bytes does not matter. -/
def Obligations.LrcNegatesTheByteSum : Prop :=
  (∀ s : List Byte, (lrc s).toNat = (256 - (s.map BitVec.toNat).sum % 256) % 256) ∧
  (∀ s : List Byte, ((s.map BitVec.toNat).sum + (lrc s).toNat) % 256 = 0) ∧
  (∀ s t : List Byte, s.Perm t → lrc s = lrc t) ∧ lrc [] = 0

/-! ## Frame codec family -/

/-- 30_encoding.md rules R92 and R93: every byte of the request body and of the RTU request frame. -/
def Obligations.RtuRequestFrameLayout : Prop :=
  ∀ (slave func : BitVec 8) (start qty : BitVec 16) (extra : List Byte),
    let b := body slave func start qty extra
    let f := buildRtu slave func start qty extra
    b.length = 6 + extra.length ∧ b[0]? = some slave ∧ b[1]? = some func ∧
    b[2]? = some (start.extractLsb' 8 8) ∧ b[3]? = some (start.extractLsb' 0 8) ∧
    b[4]? = some (qty.extractLsb' 8 8) ∧ b[5]? = some (qty.extractLsb' 0 8) ∧
    (∀ k, b[6 + k]? = extra[k]?) ∧
    f.length = 8 + extra.length ∧ (∀ k, k < 6 + extra.length → f[k]? = b[k]?) ∧
    f[6 + extra.length]? = some ((crc16Value b).extractLsb' 0 8) ∧
    f[7 + extra.length]? = some ((crc16Value b).extractLsb' 8 8)

/-- 30_encoding.md rule R95: every character of the ASCII request frame. -/
def Obligations.AsciiRequestFrameLayout : Prop :=
  ∀ (slave func : BitVec 8) (start qty : BitVec 16) (extra : List Byte),
    let b := body slave func start qty extra
    let f := buildAscii slave func start qty extra
    let n := extra.length
    f.length = 17 + 2 * n ∧ f[0]? = some 0x3A ∧
    (∀ k x, b[k]? = some x → f[1 + 2 * k]? = some (digit (x.extractLsb' 4 4)) ∧
      f[2 + 2 * k]? = some (digit (x.extractLsb' 0 4))) ∧
    f[13 + 2 * n]? = some (digit ((lrc b).extractLsb' 4 4)) ∧
    f[14 + 2 * n]? = some (digit ((lrc b).extractLsb' 0 4)) ∧
    f[15 + 2 * n]? = some 0x0D ∧ f[16 + 2 * n]? = some 0x0A

/-- 30_encoding.md rule R101: which texts are hex text, and what they mean. -/
def Obligations.UnhexReadsExactlyHexText : Prop :=
  ∀ lowerOk : Bool,
    (∀ (c : Byte) (v : BitVec 4), digitVal lowerOk c = some v ↔
      (v.toNat < 10 ∧ c.toNat = 0x30 + v.toNat) ∨ (10 ≤ v.toNat ∧ c.toNat = 0x41 + (v.toNat - 10)) ∨
      (lowerOk = true ∧ 10 ≤ v.toNat ∧ c.toNat = 0x61 + (v.toNat - 10))) ∧
    (∀ t, unhex lowerOk t = none ↔ t.length % 2 = 1 ∨ ∃ c ∈ t, digitVal lowerOk c = none) ∧
    (∀ t s, unhex lowerOk t = some s → t.length = 2 * s.length ∧
      ∀ k b, s[k]? = some b → ∃ hi lo h l, t[2 * k]? = some hi ∧ t[2 * k + 1]? = some lo ∧
        digitVal lowerOk hi = some h ∧ digitVal lowerOk lo = some l ∧
        b.toNat = 16 * h.toNat + l.toNat) ∧
    (∀ s, unhex lowerOk (hex s) = some s)

/-- 41_frame_codec.md rules R151 and R154, through rules R150 and R152: the word of every operand value, the
frame left in OUTBUF, and everything else unchanged. -/
def Obligations.BuildCommandsResultAndFrame : Prop :=
  ∀ (slave func : BitVec 8) (start qty : BitVec 16) (s : State),
    decode (0x10#8 ++ slave ++ func ++ start ++ qty ++ 0#8) = .ok (.buildRtu slave func start qty) ∧
    decode (0x11#8 ++ slave ++ func ++ start ++ qty ++ 0#8) = .ok (.buildAscii slave func start qty) ∧
    (∃ t, exec (.buildRtu slave func start qty) s = .next t ∧
      t.buf .out = body slave func start qty (s.buf .inb) ++ crc16 (body slave func start qty (s.buf .inb)) ∧
      t.status.code = 0 ∧ t.ret = none ∧ validBitsKept s t ∧
      regsKept [.status, .outlen] s t ∧ bytesKept [.out] s t ∧ transportKept s t ∧ hostKept s t) ∧
    (∃ t, exec (.buildAscii slave func start qty) s = .next t ∧
      t.buf .out = [0x3A] ++ hex (body slave func start qty (s.buf .inb)) ++
        hex2 (lrc (body slave func start qty (s.buf .inb))) ++ [0x0D, 0x0A] ∧
      t.status.code = 0 ∧ t.ret = none ∧ validBitsKept s t ∧
      regsKept [.status, .outlen] s t ∧ bytesKept [.out] s t ∧ transportKept s t ∧ hostKept s t)

/-- 41_frame_codec.md rule R155: which inputs parse, to what, and why the others do not. -/
def Obligations.ParseRtuAcceptsExactlyGoodFrames : Prop :=
  ∀ raw : List Byte,
    (∀ p, parseRtu raw = .ok p ↔ p ≠ [] ∧ raw = p ++ crc16 p) ∧
    (parseRtu raw = .error .frameTooShort ↔ raw.length < 3) ∧
    (parseRtu raw = .error .checksumMismatch ↔ 3 ≤ raw.length ∧ ∀ p, raw ≠ p ++ crc16 p) ∧
    ∀ c, parseRtu raw = .error c → c = .frameTooShort ∨ c = .checksumMismatch

/-- 41_frame_codec.md rule R160: which inputs parse, to what, and why the others do not. -/
def Obligations.ParseAsciiAcceptsExactlyGoodFrames : Prop :=
  ∀ (lowerOk : Bool) (raw : List Byte),
    (∀ p, parseAscii lowerOk raw = .ok p ↔
      ∃ text, raw = [0x3A] ++ text ++ [0x0D, 0x0A] ∧ unhex lowerOk text = some (p ++ [lrc p])) ∧
    (parseAscii lowerOk raw = .error .checksumMismatch ↔
      ∃ text p x, raw = [0x3A] ++ text ++ [0x0D, 0x0A] ∧ unhex lowerOk text = some (p ++ [x]) ∧ x ≠ lrc p) ∧
    (parseAscii lowerOk raw = .error .framingError ↔
      ¬ ∃ text p x, raw = [0x3A] ++ text ++ [0x0D, 0x0A] ∧ unhex lowerOk text = some (p ++ [x])) ∧
    ∀ c, parseAscii lowerOk raw = .error c → c = .framingError ∨ c = .checksumMismatch

/-- 41_frame_codec.md rules R156 and R161: the payload, OUTLEN and code 0, or an emptied OUTBUF and the
parser's code, and the frame of both commands. -/
def Obligations.ParseCommandsResultAndFrame : Prop :=
  decode 0x2000000000000000#64 = .ok .parseRtu ∧ decode 0x2100000000000000#64 = .ok .parseAscii ∧
  ∀ (i : Instr) (s : State), i = .parseRtu ∨ i = .parseAscii →
    ∃ t, exec i s = .next t ∧
      (match (if i = .parseRtu then parseRtu (s.buf .inb)
          else parseAscii s.par.hexLowerOk (s.buf .inb)) with
        | .ok p => t.buf .out = p ∧ t.status.code = 0 ∧
            p.length = if i = .parseRtu then (s.buf .inb).length - 2 else ((s.buf .inb).length - 5) / 2
        | .error c => t.buf .out = [] ∧
            ((c = .frameTooShort ∧ i = .parseRtu ∧ t.status.code = 3) ∨
             (c = .checksumMismatch ∧ t.status.code = 4) ∨
             (c = .framingError ∧ i = .parseAscii ∧ t.status.code = 5))) ∧
      t.ret = none ∧ validBitsKept s t ∧
      regsKept [.status, .outlen] s t ∧ bytesKept [.out] s t ∧ transportKept s t ∧ hostKept s t

/-- 41_frame_codec.md rule R165. -/
def Obligations.ParseOfBuildIsTheBody : Prop :=
  ∀ (slave func : BitVec 8) (start qty : BitVec 16) (extra : List Byte) (lowerOk : Bool),
    parseRtu (buildRtu slave func start qty extra) = .ok (body slave func start qty extra) ∧
    parseAscii lowerOk (buildAscii slave func start qty extra) = .ok (body slave func start qty extra)

/-- 41_frame_codec.md rule R157 (e): changing any one byte of an accepted RTU frame, payload or CRC, gives
ChecksumMismatch. -/
def Obligations.AnyOneCorruptedByteFailsTheCrc : Prop :=
  ∀ (pre post : List Byte) (x y : Byte) (p : List Byte), x ≠ y →
    parseRtu (pre ++ x :: post) = .ok p → parseRtu (pre ++ y :: post) = .error .checksumMismatch

/-- 41_frame_codec.md rule R157 (f) with 40_checksum.md rule R133 (c): the parser's trap. -/
def Obligations.TrailingZeroBytesStillParse : Prop :=
  ∀ raw p : List Byte, parseRtu raw = .ok p →
    parseRtu (raw ++ [0]) = .ok raw.dropLast ∧ parseRtu (raw ++ [0, 0]) = .ok raw

/-- 41_frame_codec.md rule R167: the codec commands depend on the command word and INBUF alone
(HEX_LOWER_OK being a parameter of the block). -/
def Obligations.CodecCommandsArePure : Prop :=
  ∀ (i : Instr) (s₁ s₂ t₁ t₂ : State),
    i.op = .buildRtu ∨ i.op = .buildAscii ∨ i.op = .parseRtu ∨ i.op = .parseAscii →
    s₁.par = s₂.par → s₁.buf .inb = s₂.buf .inb → exec i s₁ = .next t₁ → exec i s₂ = .next t₂ →
    t₁.buf .out = t₂.buf .out ∧ t₁.readReg .outlen = t₂.readReg .outlen ∧
    t₁.status.code = t₂.status.code ∧ t₁.ret = t₂.ret ∧ transportKept s₁ t₁ ∧
    regsKept [.status, .outlen] s₁ t₁ ∧ bytesKept [.out] s₁ t₁ ∧ validBitsKept s₁ t₁

/-! ## Framer family -/

/-- 42_read_framer.md rule R182: before the first SETCFG RDREGS is out of contract, after it no operand
value is; the T0 writes are there whatever the outcome, and unless it is OK nothing of a payload is. -/
def Obligations.RdregsContractAndPreparation : Prop :=
  ∀ (s : State) (start qty : BitVec 16),
    decode (0x30#8 ++ 0#16 ++ start ++ qty ++ 0#8) = .ok (.rdregs start qty) ∧
    (s.status.cfgValid = false → ∃ t, exec (.rdregs start qty) s = .next t ∧ illegalEffect s t) ∧
    (s.status.cfgValid = true → ∃ t, exec (.rdregs start qty) s = .next t ∧ t.status.code ≠ 15 ∧
      t.readReg .rspStart = some (start.setWidth 32) ∧ t.readReg .rspQty = some (qty.setWidth 32) ∧
      t.readReg .rdlen = some (BitVec.ofNat 32
        (if s.cfg.mode = .rtu then 5 + 2 * qty.toNat else s.par.asciiRxMax)) ∧
      (t.status.code ≠ 0 → t.status.rspValid = false ∧ t.buf .pay = [] ∧
        t.readReg .bytecnt = some 0 ∧ t.readReg .rblen = some 0))

/-- 42_read_framer.md rules R183 and R184: flush, write, read, in this order; a `false` ends the
transaction with code 6 and without the later calls; what TXBUF and RXBUF hold. -/
def Obligations.RdregsTransportCalls : Prop :=
  ∀ (s : State) (start qty : BitVec 16), s.status.cfgValid = true →
    let a := s.nextAnswers
    let frame := if s.cfg.mode = .rtu then buildRtu s.cfg.slave 3 start qty []
      else buildAscii s.cfg.slave 3 start qty []
    let most := if s.cfg.mode = .rtu then 5 + 2 * qty.toNat else s.par.asciiRxMax
    ∃ t, exec (.rdregs start qty) s = .next t ∧
      (a.flushOk = false → t.calls = s.calls ++ [.resetInputBuffer] ∧ t.status.code = 6 ∧
        t.buf .tx = [] ∧ t.buf .rx = []) ∧
      (a.flushOk = true → a.writeOk = false →
        t.calls = s.calls ++ [.resetInputBuffer, .write frame] ∧ t.status.code = 6 ∧
        t.buf .tx = frame ∧ t.buf .rx = []) ∧
      (a.flushOk = true → a.writeOk = true →
        t.calls = s.calls ++ [.resetInputBuffer, .write frame, .read most] ∧ t.status.code ≠ 6 ∧
        t.buf .tx = frame ∧ t.buf .rx = a.rx.take most)

/-- 60_exceptions.md rule R235 item 2, 42_read_framer.md rules R185 to R188: the first cause that applies
gives the code. -/
def Obligations.RdregsOutcomeIsTheFirstCause : Prop :=
  ∀ (s : State) (start qty : BitVec 16), s.status.cfgValid = true →
    let a := s.nextAnswers
    let rtu := s.cfg.mode = .rtu
    let rx := a.rx.take (if rtu then 5 + 2 * qty.toNat else s.par.asciiRxMax)
    let parsed := if rtu then parseRtu rx else parseAscii s.par.hexLowerOk rx
    ∃ t, exec (.rdregs start qty) s = .next t ∧ t.ret = none ∧
      if a.flushOk = false ∨ a.writeOk = false then t.status.code = 6
      else if rx = [] then t.status.code = 1
      else if rtu ∧ rx.length < 5 + 2 * qty.toNat then t.status.code = 2
      else match parsed with
        | .error c => (c = .frameTooShort ∧ t.status.code = 3) ∨ (c = .checksumMismatch ∧ t.status.code = 4) ∨
            (c = .framingError ∧ t.status.code = 5)
        | .ok p => if p.length < 3 then t.status.code = 7 else t.status.code = 0

/-- 42_read_framer.md rule R190, with the frame of rule R180. -/
def Obligations.RdregsSuccessDeliversThePayload : Prop :=
  ∀ (s : State) (start qty : BitVec 16) (p : List Byte), s.status.cfgValid = true →
    s.nextAnswers.flushOk = true → s.nextAnswers.writeOk = true →
    (if s.cfg.mode = .rtu then
      5 + 2 * qty.toNat ≤ s.nextAnswers.rx.length ∧
        parseRtu (s.nextAnswers.rx.take (5 + 2 * qty.toNat)) = .ok p
      else parseAscii s.par.hexLowerOk (s.nextAnswers.rx.take s.par.asciiRxMax) = .ok p ∧ 3 ≤ p.length) →
    ∃ t, exec (.rdregs start qty) s = .next t ∧ t.status.code = 0 ∧ t.status.rspValid = true ∧
      t.buf .pay = p ∧ 3 ≤ p.length ∧ (s.cfg.mode = .rtu → p.length = 3 + 2 * qty.toNat) ∧
      (∀ b, p[2]? = some b → t.readReg .bytecnt = some (b.setWidth 32) ∧
        t.readReg .rblen = some (BitVec.ofNat 32 (min b.toNat (p.length - 3))) ∧
        (s.cfg.mode = .rtu →
          t.readReg .rblen = some (BitVec.ofNat 32 (min b.toNat (2 * qty.toNat)))))

/-- 42_read_framer.md rule R180, "State not changed": whatever the outcome of an in-contract RDREGS. One
set of transport answers is used up (the model's choice, notes/assumptions/5.md). -/
def Obligations.RdregsFrame : Prop :=
  ∀ (s t : State) (start qty : BitVec 16), s.status.cfgValid = true → exec (.rdregs start qty) s = .next t →
    bytesKept [.tx, .rx, .pay] s t ∧
    regsKept [.status, .txlen, .rxlen, .paylen, .rdlen, .rspStart, .rspQty, .bytecnt, .rblen] s t ∧
    t.status.cfgValid = true ∧ t.answers = s.answers.tail ∧ hostKept s t

/-- 42_read_framer.md rule R189. -/
def Obligations.RdregsNeverReportsFrameTooShort : Prop :=
  ∀ (s t : State) (start qty : BitVec 16), s.status.cfgValid = true →
    exec (.rdregs start qty) s = .next t → t.status.code ≠ 3

/-- 42_read_framer.md rule R185: with the calls answered, the outcome depends on the bytes read, `qty` and
CFG.MODE (and the block's parameters), not on `start`, CFG.SLAVE or anything else. -/
def Obligations.RdregsOutcomeDependsOnTheResponseOnly : Prop :=
  ∀ (s₁ s₂ t₁ t₂ : State) (start₁ start₂ qty : BitVec 16),
    s₁.status.cfgValid = true → s₂.status.cfgValid = true → s₁.cfg.mode = s₂.cfg.mode → s₁.par = s₂.par →
    s₁.nextAnswers = s₂.nextAnswers → s₁.nextAnswers.flushOk = true → s₁.nextAnswers.writeOk = true →
    exec (.rdregs start₁ qty) s₁ = .next t₁ → exec (.rdregs start₂ qty) s₂ = .next t₂ →
    t₁.status.code = t₂.status.code ∧ t₁.buf .pay = t₂.buf .pay ∧
    t₁.readReg .bytecnt = t₂.readReg .bytecnt ∧ t₁.readReg .rblen = t₂.readReg .rblen

/-- 42_read_framer.md rule R197: of what earlier commands left, an RDREGS depends on CFG alone. -/
def Obligations.RdregsForgetsEarlierTransactions : Prop :=
  ∀ (s₁ s₂ t₁ t₂ : State) (start qty : BitVec 16),
    s₁.status.cfgValid = true → s₂.status.cfgValid = true → s₁.cfg = s₂.cfg → s₁.par = s₂.par →
    s₁.nextAnswers = s₂.nextAnswers →
    exec (.rdregs start qty) s₁ = .next t₁ → exec (.rdregs start qty) s₂ = .next t₂ →
    t₁.status = t₂.status ∧ t₁.buf .tx = t₂.buf .tx ∧ t₁.buf .rx = t₂.buf .rx ∧ t₁.buf .pay = t₂.buf .pay ∧
    (∀ r ∈ [Reg.rdlen, .rspStart, .rspQty, .bytecnt, .rblen, .txlen, .rxlen, .paylen],
      t₁.readReg r = t₂.readReg r) ∧
    t₁.calls.drop s₁.calls.length = t₂.calls.drop s₂.calls.length

/-- 30_encoding.md rules R94, R96, R98, 42_read_framer.md rule R194: a well-formed answer carrying `qty`
registers, from whatever slave and with whatever function code, is delivered register by register. -/
def Obligations.WellFormedAnswerIsDeliveredRegisterByRegister : Prop :=
  ∀ (s : State) (start qty : BitVec 16) (slave func : BitVec 8) (data : List Byte),
    s.status.cfgValid = true → data.length = 2 * qty.toNat → data.length ≤ 255 →
    (s.cfg.mode = .ascii → 11 + 4 * qty.toNat ≤ s.par.asciiRxMax) →
    s.nextAnswers = ⟨true, true,
      let payload := [slave, func, BitVec.ofNat 8 data.length] ++ data
      if s.cfg.mode = .rtu then payload ++ crc16 payload
      else [0x3A] ++ hex payload ++ hex2 (lrc payload) ++ [0x0D, 0x0A]⟩ →
    ∃ t, exec (.rdregs start qty) s = .next t ∧ t.status.code = 0 ∧
      ∀ i : Nat, i < qty.toNat → ∃ u x y, exec (.regslice (BitVec.ofNat 32 i)) t = .next u ∧
        u.status.code = 0 ∧ data[2 * i]? = some x ∧ data[2 * i + 1]? = some y ∧
        u.readReg .regaddr = some (BitVec.ofNat 32 (start.toNat + i)) ∧ u.readReg .reglen = some 2 ∧
        u.readReg .regb0 = some (x.setWidth 32) ∧ u.readReg .regb1 = some (y.setWidth 32)

/-- 42_read_framer.md rule R195: out of contract, or the address, the length from RBLEN and the bytes of
PAYBUF, with the frame. -/
def Obligations.RegsliceResultAndFrame : Prop :=
  ∀ (s : State) (index : BitVec 32),
    let i := index.toNat
    decode (0x31#8 ++ 0#16 ++ index ++ 0#8) = .ok (.regslice index) ∧
    (s.status.rspValid = false ∨ s.rspQty.value.toNat ≤ i →
      ∃ t, exec (.regslice index) s = .next t ∧ illegalEffect s t) ∧
    (s.status.rspValid = true → i < s.rspQty.value.toNat →
      ∃ t, exec (.regslice index) s = .next t ∧ t.status.code = 0 ∧ t.ret = none ∧ validBitsKept s t ∧
        t.readReg .regaddr = some (BitVec.ofNat 32 (s.rspStart.value.toNat + i)) ∧
        (2 * i + 2 ≤ s.rblen.value.toNat → t.readReg .reglen = some 2 ∧
          (∀ x, s.readByte .pay (3 + 2 * i) = some x → t.readReg .regb0 = some (x.setWidth 32)) ∧
          (∀ y, s.readByte .pay (4 + 2 * i) = some y → t.readReg .regb1 = some (y.setWidth 32))) ∧
        (s.rblen.value.toNat = 2 * i + 1 → t.readReg .reglen = some 1 ∧ t.readReg .regb1 = some 0 ∧
          (∀ x, s.readByte .pay (3 + 2 * i) = some x → t.readReg .regb0 = some (x.setWidth 32))) ∧
        (s.rblen.value.toNat ≤ 2 * i → t.readReg .reglen = some 0 ∧ t.readReg .regb0 = some 0 ∧
          t.readReg .regb1 = some 0) ∧
        regsKept [.status, .regaddr, .reglen, .regb0, .regb1] s t ∧ bytesKept [] s t ∧
        transportKept s t ∧ hostKept s t)

/-- 42_read_framer.md rule R195 "= len(registerBytes[2i : 2i+2])", 30_encoding.md rules R97 and R98: in
every state of a run the slice is the clamped slice of the response's register bytes, zero-filled. -/
def Obligations.RegsliceIsTheClampedSlice : Prop :=
  ∀ (s : State) (index : BitVec 32), s.Inv → s.status.rspValid = true →
    index.toNat < s.rspQty.value.toNat →
    let part := slice (registerBytes (s.buf .pay)) (2 * index.toNat) (2 * index.toNat + 2)
    ∃ t, exec (.regslice index) s = .next t ∧
      t.readReg .reglen = some (BitVec.ofNat 32 part.length) ∧
      t.readReg .regb0 = some ((part.getD 0 0).setWidth 32) ∧
      t.readReg .regb1 = some ((part.getD 1 0).setWidth 32)

/-! ## Host access family -/

/-- 43_host_access.md rule R210, with CFG's layout of 10_state.md rule R23. -/
def Obligations.SetcfgResultAndFrame : Prop :=
  (∀ (mode : Mode) (slave : BitVec 8),
    decode (0x50#8 ++ (if mode = .ascii then 1#8 else 0#8) ++ slave ++ 0#40) = .ok (.setcfg mode slave)) ∧
  (∀ (mode : Mode) (slave : BitVec 8) (s : State), ∃ t, exec (.setcfg mode slave) s = .next t ∧
    t.cfg.mode = mode ∧ t.cfg.slave = slave ∧
    t.readReg .cfg = some (BitVec.ofNat 32 (256 * slave.toNat + if mode = .ascii then 1 else 0)) ∧
    t.status.cfgValid = true ∧ t.status.rspValid = s.status.rspValid ∧ t.status.code = s.status.code ∧
    t.ret = none ∧ regsKept [.status, .cfg] s t ∧ bytesKept [] s t ∧ transportKept s t ∧ hostKept s t) ∧
  (∀ s : State, ∃ t, exec (.setcfg .ascii 17) s = .next t ∧ t.readReg .cfg = some 0x00001101#32)

/-- 43_host_access.md rule R212: the byte is stored at index INLEN and nowhere else; a full INBUF is out of
contract. -/
def Obligations.PushResultAndFrame : Prop :=
  ∀ (byte : Byte) (s : State),
    decode (0x40#8 ++ byte ++ 0#48) = .ok (.push byte) ∧
    ((s.buf .inb).length = s.par.inMax → ∃ t, exec (.push byte) s = .next t ∧ illegalEffect s t) ∧
    ((s.buf .inb).length ≠ s.par.inMax → ∃ t, exec (.push byte) s = .next t ∧
      (t.buf .inb).length = (s.buf .inb).length + 1 ∧
      t.readByte .inb (s.buf .inb).length = some byte ∧
      (∀ sp k, ¬ (sp = .inb ∧ k = (s.buf .inb).length) → t.readByte sp k = s.readByte sp k) ∧
      t.status = s.status ∧ t.ret = none ∧ regsKept [.inlen] s t ∧ transportKept s t ∧ hostKept s t)

/-- 43_host_access.md rule R214. -/
def Obligations.ClrinResultAndFrame : Prop :=
  decode 0x4100000000000000#64 = .ok .clrin ∧
  ∀ s : State, ∃ t, exec .clrin s = .next t ∧ t.buf .inb = [] ∧ t.readReg .inlen = some 0 ∧
    t.status = s.status ∧ t.ret = none ∧ regsKept [.inlen] s t ∧ bytesKept [.inb] s t ∧
    transportKept s t ∧ hostKept s t

/-- 43_host_access.md rule R215: the byte below the length with nothing else changed, else code 15. The
space numbers are those of 20_memory.md rule R60; 5 to 7 are illegal. -/
def Obligations.LdbResultAndFrame : Prop :=
  ∀ (index : BitVec 32) (s : State),
    (∀ n : BitVec 3, n.toNat ≤ 4 →
      decode (0x42#8 ++ 0#5 ++ n ++ 0#8 ++ index ++ 0#8) = .ok (.ldb n index)) ∧
    (∀ a : BitVec 8, 4 < a.toNat → ∃ r, decode (0x42#8 ++ a ++ 0#8 ++ index ++ 0#8) = .error r) ∧
    (∀ (n : BitVec 3) (sp : Space),
      (n, sp) ∈ [(0#3, Space.inb), (1#3, .out), (2#3, .tx), (3#3, .rx), (4#3, .pay)] →
      (∀ b, (s.buf sp)[index.toNat]? = some b →
        exec (.ldb n index) s = .next { s with ret := some (b.setWidth 32) }) ∧
      ((s.buf sp).length ≤ index.toNat → ∃ t, exec (.ldb n index) s = .next t ∧ illegalEffect s t)) ∧
    (∀ n : BitVec 3, 4 < n.toNat → ∃ t, exec (.ldb n index) s = .next t ∧ illegalEffect s t)

/-- 43_host_access.md rule R218: the register's zero-extended value with nothing else changed; code 15 for
an unwritten register and for a number above 17. -/
def Obligations.RdrResultAndFrame : Prop :=
  ∀ (n : BitVec 5) (s : State),
    (n.toNat ≤ 17 → decode (0x43#8 ++ 0#3 ++ n ++ 0#48) = .ok (.rdr n)) ∧
    (∀ a : BitVec 8, 17 < a.toNat → ∃ r, decode (0x43#8 ++ a ++ 0#48) = .error r) ∧
    (∀ r : Reg, [Reg.status, .cfg, .inlen, .outlen, .txlen, .rxlen, .paylen, .crc, .lrcr, .rdlen,
        .rspStart, .rspQty, .bytecnt, .rblen, .regaddr, .reglen, .regb0, .regb1][n.toNat]? = some r →
      (s.writtenFlag r = true → ∃ v, s.readReg r = some v ∧
        exec (.rdr n) s = .next { s with ret := some v }) ∧
      (s.writtenFlag r = false → ∃ t, exec (.rdr n) s = .next t ∧ illegalEffect s t)) ∧
    (17 < n.toNat → ∃ t, exec (.rdr n) s = .next t ∧ illegalEffect s t)

/-- 10_state.md rules R22 to R25: what RDR returns for each register, in numbers. -/
def Obligations.RegisterReadsAreZeroExtended : Prop :=
  ∀ (s : State) (v : RetVal),
    (s.readReg .status = some v → v.extractLsb' 0 4 = s.status.code ∧ v.getLsbD 4 = s.status.rspValid ∧
      v.getLsbD 5 = s.status.cfgValid ∧ ∀ k, 6 ≤ k → v.getLsbD k = false) ∧
    (s.readReg .cfg = some v → v.getLsbD 0 = decide (s.cfg.mode = .ascii) ∧
      v.extractLsb' 8 8 = s.cfg.slave ∧ v.toNat < 65536 ∧ v.extractLsb' 1 7 = 0) ∧
    (s.Inv → ∀ r sp, (r, sp) ∈ [(Reg.inlen, Space.inb), (.outlen, .out), (.txlen, .tx), (.rxlen, .rx),
        (.paylen, .pay)] → s.readReg r = some v → v.toNat = (s.buf sp).length) ∧
    (∀ r w, (r, w) ∈ [(Reg.crc, 16), (.lrcr, 8), (.rspStart, 16), (.rspQty, 16), (.bytecnt, 8), (.rblen, 8),
        (.regaddr, 17), (.reglen, 2), (.regb0, 8), (.regb1, 8)] → s.readReg r = some v → v.toNat < 2 ^ w)

/-- 30_encoding.md rule R126: LOAD leaves INBUF holding exactly its bytes, in order, when they fit. -/
def Obligations.LoadStagesExactlyItsBytes : Prop :=
  ∀ (bytes : List Byte) (s : State) (rest : List HostInput), bytes.length ≤ s.par.inMax →
    s.port = (pseudoLoad bytes).map (fun i => .command (encode i)) ++ rest →
    ∃ t, Sys2Proof.core.run (bytes.length + 1) s = .next t ∧ t.buf .inb = bytes ∧ t.port = rest ∧
      t.status = s.status ∧ regsKept [.inlen] s t ∧ bytesKept [.inb] s t ∧ transportKept s t

/-! ## Whole-machine rules -/

/-- 10_state.md rule R33: a buffer changes only by its owner, over all commands. -/
def Obligations.BuffersChangeOnlyByTheirOwners : Prop :=
  ∀ (i : Instr) (s t : State), exec i s = .next t → bytesKept (writesSpaces i) s t

/-- 10_state.md rule R24, column "written by": a register changes only by its writers, over all commands. -/
def Obligations.RegistersChangeOnlyByTheirWriters : Prop :=
  ∀ (i : Instr) (s t : State), exec i s = .next t →
    regsKept (.status :: writesRegs i) s t ∧ hostKept s t

/-- 10_state.md rule R26: a written flag, once set, stays set under every command, and every register a
command writes in contract has its flag set. -/
def Obligations.WrittenFlagsAreSetAndNeverCleared : Prop :=
  (∀ r, State.reset.writtenFlag r = true ↔ r ∈ [Reg.status, .inlen, .outlen, .txlen, .rxlen, .paylen]) ∧
  ∀ (i : Instr) (s t : State), exec i s = .next t →
    (∀ r, s.writtenFlag r = true → t.writtenFlag r = true) ∧
    (outOfContract i s = false → ∀ r ∈ writesRegs i, t.writtenFlag r = true) ∧
    (∀ r, t.writtenFlag r = true → s.writtenFlag r = true ∨ r ∈ writesRegs i)

/-- 20_memory.md rule R71: order and number of the transport calls, over all commands. -/
def Obligations.OnlyRdregsCallsTheTransport : Prop :=
  ∀ (i : Instr) (s t : State), exec i s = .next t →
    ∃ new, t.calls = s.calls ++ new ∧
      (i.op ≠ .rdregs → new = [] ∧ transportKept s t) ∧
      (new = [] ∨ new = [.resetInputBuffer] ∨ (∃ f, new = [.resetInputBuffer, .write f]) ∨
        ∃ f n, new = [.resetInputBuffer, .write f, .read n])

/-- 10_state.md rule R22, fields RSP_VALID and CFG_VALID: who sets and who clears them. -/
def Obligations.ValidBitsFollowTheirWriters : Prop :=
  ∀ (i : Instr) (s t : State), exec i s = .next t →
    (t.status.rspValid = if i.op = .rdregs ∧ s.status.cfgValid = true then t.status.code == 0
      else s.status.rspValid) ∧
    (t.status.cfgValid = (s.status.cfgValid || i.op == .setcfg))

/-- 10_state.md rule R28: no command's behaviour depends on STATUS.CODE; what RDR 0 returns is the code
itself. -/
def Obligations.NoCommandDependsOnStatusCode : Prop :=
  ∀ (i : Instr) (s t : State) (c : BitVec 4), exec i s = .next t →
    ∃ u, exec i { s with status := { s.status with code := c } } = .next u ∧
      bytesKept [] t u ∧ regsKept [.status] t u ∧ validBitsKept t u ∧ transportKept t u ∧ hostKept t u ∧
      (t.status.code = u.status.code ∨ (t.status.code = s.status.code ∧ u.status.code = c)) ∧
      (i ≠ .rdr 0 → t.ret = u.ret)

/-- 41_frame_codec.md rule R166 and 42_read_framer.md rule R190: no payload without OK. -/
def Obligations.NoPayloadWithoutOk : Prop :=
  ∀ (i : Instr) (s t : State), exec i s = .next t → t.status.code ≠ 0 →
    (i = .parseRtu ∨ i = .parseAscii → t.buf .out = []) ∧
    (i.op = .rdregs → s.status.cfgValid = true → t.buf .pay = [] ∧ t.status.rspValid = false)

/-- The invariant of Safety.lean holds after reset (10_state.md rule R40; the values of unwritten registers
and the default parameters are the model's, notes/assumptions/1.md and 2.md). -/
def Obligations.InvariantHoldsAtReset : Prop := State.reset.Inv

/-- The invariant of Safety.lean is kept by every step: every command word, legal or not, reset, and a
command cut by reset, for every parameter value and every transport answer. -/
def Obligations.InvariantIsKeptByEveryStep : Prop :=
  ∀ s t : State, s.Inv → step s = .next t → t.Inv

/-- 00_scope.md rule R7: no step changes the block's parameters, and each takes at most one host input. -/
def Obligations.StepsKeepTheParameters : Prop :=
  ∀ s t : State, step s = .next t → t.par = s.par ∧ t.port = s.port.tail
end

