-- ==== Sys2Proof/Laws/Bytes.lean ====
section
/-! SUPPORT. Slices, byte order and hex text. -/

namespace Sys2Proof.Machine

theorem slice_length (s : List Byte) (a b : Nat) : (slice s a b).length = min b s.length - a := by
  simp [slice]

theorem slice_getElem? (s : List Byte) (a b k : Nat) :
    (slice s a b)[k]? = if a + k < b then s[a + k]? else none := by
  simp [slice, List.getElem?_take]

@[simp] theorem slice_prefix (s t : List Byte) : slice (s ++ t) 0 s.length = s := by simp [slice]

@[simp] theorem slice_suffix (s t : List Byte) : slice (s ++ t) s.length (s ++ t).length = t := by
  rw [slice, List.take_length, List.drop_left]

@[simp] theorem le16_length (v : BitVec 16) : (le16 v).length = 2 := rfl
@[simp] theorem be16_length (v : BitVec 16) : (be16 v).length = 2 := rfl
@[simp] theorem hex2_length (b : Byte) : (hex2 b).length = 2 := rfl

@[simp] theorem hex_length (s : List Byte) : (hex s).length = 2 * s.length := by
  induction s with
  | nil => rfl
  | cons b s ih => simp [hex, ih]; omega

theorem hex_append (s t : List Byte) : hex (s ++ t) = hex s ++ hex t := by
  induction s with
  | nil => rfl
  | cons b s ih => simp [hex, ih]

/-- A nibble's digit is read back, whether or not lowercase digits are accepted. -/
@[simp] theorem digitVal_digit (lowerOk : Bool) (v : BitVec 4) : digitVal lowerOk (digit v) = some v := by
  revert lowerOk v; decide

/-- Two digits decode to the byte of their values. -/
theorem unhex_cons {lowerOk : Bool} {hi lo : Byte} {t s : List Byte} :
    unhex lowerOk (hi :: lo :: t) = some s ↔ ∃ h l r, digitVal lowerOk hi = some h ∧
      digitVal lowerOk lo = some l ∧ unhex lowerOk t = some r ∧ s = (h ++ l) :: r := by
  constructor
  · intro h
    simp only [unhex] at h
    split at h
    · rename_i h1 h2 h3; exact ⟨_, _, _, h1, h2, h3, (Option.some.inj h).symm⟩
    · simp at h
  · rintro ⟨h, l, r, h1, h2, h3, rfl⟩
    simp [unhex, h1, h2, h3]

/-- Decoded text is half as long as the text. -/
theorem unhex_length {lowerOk : Bool} : ∀ {t s : List Byte}, unhex lowerOk t = some s → t.length = 2 * s.length
  | [], s, h => by obtain rfl := Option.some.inj h; rfl
  | [_], s, h => by simp [unhex] at h
  | hi :: lo :: t, s, h => by
    obtain ⟨_, _, r, _, _, h3, rfl⟩ := unhex_cons.mp h
    have := unhex_length h3
    simp; omega

end Sys2Proof.Machine
end

