-- ==== Sys2Proof/Laws/Checksum.lean ====
section
/-! SUPPORT. The checksum loops over concatenations, and that one iteration loses no information. -/

namespace Sys2Proof.Machine

theorem crcFrom_append (acc : BitVec 16) (s t : List Byte) :
    crcFrom acc (s ++ t) = crcFrom (crcFrom acc s) t := by
  induction s generalizing acc with
  | nil => rfl
  | cons b s ih => exact ih _

theorem lrcSum_append (sum : Byte) (s t : List Byte) :
    lrcSum sum (s ++ t) = lrcSum (lrcSum sum s) t := by
  induction s generalizing sum with
  | nil => rfl
  | cons b s ih => exact ih _

theorem lrcSum_eq_add (sum : Byte) (s : List Byte) : lrcSum sum s = sum + lrcSum 0 s := by
  induction s generalizing sum with
  | nil => simp [lrcSum]
  | cons b s ih => simp only [lrcSum]; rw [ih, ih (0 + b)]; simp [BitVec.add_assoc]

@[simp] theorem crc16_length (s : List Byte) : (crc16 s).length = 2 := rfl

/-- Each bit after one iteration (40_checksum.md rule R134). -/
theorem crcShift_bit15 (acc : BitVec 16) : (crcShift acc).getLsbD 15 = acc.getLsbD 0 := by
  unfold crcShift; split <;> simp_all

/-- One iteration can be undone. -/
theorem crcShift_inj {x y : BitVec 16} (h : crcShift x = crcShift y) : x = y := by
  have h0 : x.getLsbD 0 = y.getLsbD 0 := by rw [← crcShift_bit15, ← crcShift_bit15, h]
  have hs : x >>> 1 = y >>> 1 := by
    unfold crcShift at h
    rw [h0] at h
    split at h
    · exact (BitVec.xor_left_inj _).mp h
    · exact h
  apply BitVec.eq_of_getLsbD_eq
  intro i hi
  cases i with
  | zero => exact h0
  | succ i => simpa [BitVec.getLsbD_ushiftRight, Nat.add_comm] using congrArg (fun v => v.getLsbD i) hs

theorem crcShifts_inj {n : Nat} {x y : BitVec 16} (h : crcShifts n x = crcShifts n y) : x = y := by
  induction n generalizing x y with
  | zero => exact h
  | succ n ih => exact crcShift_inj (ih h)

/-- The loop over fixed bytes can be undone. -/
theorem crcFrom_inj {s : List Byte} {x y : BitVec 16} (h : crcFrom x s = crcFrom y s) : x = y := by
  induction s generalizing x y with
  | nil => exact h
  | cons b s ih => exact (BitVec.xor_left_inj _).mp (crcShifts_inj (ih h))

/-- Different bytes leave different accumulators. -/
theorem crcByte_inj {x : BitVec 16} {a b : Byte} (h : crcByte x a = crcByte x b) : a = b := by
  simpa using congrArg (fun v => v.setWidth 8) ((BitVec.xor_right_inj _).mp (crcShifts_inj h))

theorem le16_inj {x y : BitVec 16} (h : le16 x = le16 y) : x = y := by
  simp only [le16, List.cons.injEq, and_true] at h
  apply BitVec.eq_of_getLsbD_eq
  intro i hi
  by_cases h8 : i < 8
  · simpa [BitVec.getLsbD_extractLsb', h8] using congrArg (fun v => v.getLsbD i) h.1
  · have := congrArg (fun v => v.getLsbD (i - 8)) h.2
    simp only [BitVec.getLsbD_extractLsb', show i - 8 < 8 by omega, show 8 + (i - 8) = i by omega] at this
    simpa using this

/-- Iterations over zero bits only shift. -/
theorem crcShifts_of_zeros (n : Nat) (x : BitVec 16) (h : ∀ k < n, x.getLsbD k = false) :
    crcShifts n x = x >>> n := by
  induction n generalizing x with
  | zero => simp [crcShifts]
  | succ n ih =>
    have e : crcShift x = x >>> 1 := by simp only [crcShift, h 0 (by omega)]; rfl
    rw [crcShifts, e, ih]
    · rw [← BitVec.shiftRight_add, Nat.add_comm]
    · intro k hk
      rw [BitVec.getLsbD_ushiftRight]
      exact h _ (by omega)

end Sys2Proof.Machine
end

