-- ==== Sys2Proof/Laws/State.lean ====
section
/-! SUPPORT. One lemma per field and per update of the state, so that no proof unfolds a record update. -/

namespace Sys2Proof.Machine

/-! ### setBuf -/

@[simp] theorem setBuf_status (s : State) (sp : Space) (b : List Byte) :
    (s.setBuf sp b).status = s.status := rfl
@[simp] theorem setBuf_cfg (s : State) (sp : Space) (b : List Byte) : (s.setBuf sp b).cfg = s.cfg := rfl
@[simp] theorem setBuf_crc (s : State) (sp : Space) (b : List Byte) : (s.setBuf sp b).crc = s.crc := rfl
@[simp] theorem setBuf_lrcr (s : State) (sp : Space) (b : List Byte) : (s.setBuf sp b).lrcr = s.lrcr := rfl
@[simp] theorem setBuf_rdlen (s : State) (sp : Space) (b : List Byte) : (s.setBuf sp b).rdlen = s.rdlen := rfl
@[simp] theorem setBuf_rspStart (s : State) (sp : Space) (b : List Byte) :
    (s.setBuf sp b).rspStart = s.rspStart := rfl
@[simp] theorem setBuf_rspQty (s : State) (sp : Space) (b : List Byte) :
    (s.setBuf sp b).rspQty = s.rspQty := rfl
@[simp] theorem setBuf_bytecnt (s : State) (sp : Space) (b : List Byte) :
    (s.setBuf sp b).bytecnt = s.bytecnt := rfl
@[simp] theorem setBuf_rblen (s : State) (sp : Space) (b : List Byte) : (s.setBuf sp b).rblen = s.rblen := rfl
@[simp] theorem setBuf_regaddr (s : State) (sp : Space) (b : List Byte) :
    (s.setBuf sp b).regaddr = s.regaddr := rfl
@[simp] theorem setBuf_reglen (s : State) (sp : Space) (b : List Byte) :
    (s.setBuf sp b).reglen = s.reglen := rfl
@[simp] theorem setBuf_regb0 (s : State) (sp : Space) (b : List Byte) : (s.setBuf sp b).regb0 = s.regb0 := rfl
@[simp] theorem setBuf_regb1 (s : State) (sp : Space) (b : List Byte) : (s.setBuf sp b).regb1 = s.regb1 := rfl
@[simp] theorem setBuf_mem (s : State) (sp : Space) (b : List Byte) :
    (s.setBuf sp b).mem = s.mem.setBuf sp b := rfl
@[simp] theorem setBuf_ret (s : State) (sp : Space) (b : List Byte) : (s.setBuf sp b).ret = s.ret := rfl
@[simp] theorem setBuf_par (s : State) (sp : Space) (b : List Byte) : (s.setBuf sp b).par = s.par := rfl
@[simp] theorem setBuf_port (s : State) (sp : Space) (b : List Byte) : (s.setBuf sp b).port = s.port := rfl
@[simp] theorem setBuf_answers (s : State) (sp : Space) (b : List Byte) :
    (s.setBuf sp b).answers = s.answers := rfl
@[simp] theorem setBuf_draws (s : State) (sp : Space) (b : List Byte) : (s.setBuf sp b).draws = s.draws := rfl
@[simp] theorem setBuf_calls (s : State) (sp : Space) (b : List Byte) : (s.setBuf sp b).calls = s.calls := rfl

/-! ### append -/

@[simp] theorem append_status (s : State) (b : Byte) : (s.append b).status = s.status := rfl
@[simp] theorem append_cfg (s : State) (b : Byte) : (s.append b).cfg = s.cfg := rfl
@[simp] theorem append_crc (s : State) (b : Byte) : (s.append b).crc = s.crc := rfl
@[simp] theorem append_lrcr (s : State) (b : Byte) : (s.append b).lrcr = s.lrcr := rfl
@[simp] theorem append_rdlen (s : State) (b : Byte) : (s.append b).rdlen = s.rdlen := rfl
@[simp] theorem append_rspStart (s : State) (b : Byte) : (s.append b).rspStart = s.rspStart := rfl
@[simp] theorem append_rspQty (s : State) (b : Byte) : (s.append b).rspQty = s.rspQty := rfl
@[simp] theorem append_bytecnt (s : State) (b : Byte) : (s.append b).bytecnt = s.bytecnt := rfl
@[simp] theorem append_rblen (s : State) (b : Byte) : (s.append b).rblen = s.rblen := rfl
@[simp] theorem append_regaddr (s : State) (b : Byte) : (s.append b).regaddr = s.regaddr := rfl
@[simp] theorem append_reglen (s : State) (b : Byte) : (s.append b).reglen = s.reglen := rfl
@[simp] theorem append_regb0 (s : State) (b : Byte) : (s.append b).regb0 = s.regb0 := rfl
@[simp] theorem append_regb1 (s : State) (b : Byte) : (s.append b).regb1 = s.regb1 := rfl
@[simp] theorem append_mem (s : State) (b : Byte) :
    (s.append b).mem = s.mem.setBuf .inb (s.buf .inb ++ [b]) := rfl
@[simp] theorem append_ret (s : State) (b : Byte) : (s.append b).ret = s.ret := rfl
@[simp] theorem append_par (s : State) (b : Byte) : (s.append b).par = s.par := rfl
@[simp] theorem append_port (s : State) (b : Byte) : (s.append b).port = s.port := rfl
@[simp] theorem append_answers (s : State) (b : Byte) : (s.append b).answers = s.answers := rfl
@[simp] theorem append_draws (s : State) (b : Byte) : (s.append b).draws = s.draws := rfl
@[simp] theorem append_calls (s : State) (b : Byte) : (s.append b).calls = s.calls := rfl

/-! ### raise -/

@[simp] theorem raise_status (s : State) (c : Code) :
    (s.raise c).status = ⟨c.num, s.status.rspValid, s.status.cfgValid⟩ := rfl
@[simp] theorem raise_cfg (s : State) (c : Code) : (s.raise c).cfg = s.cfg := rfl
@[simp] theorem raise_crc (s : State) (c : Code) : (s.raise c).crc = s.crc := rfl
@[simp] theorem raise_lrcr (s : State) (c : Code) : (s.raise c).lrcr = s.lrcr := rfl
@[simp] theorem raise_rdlen (s : State) (c : Code) : (s.raise c).rdlen = s.rdlen := rfl
@[simp] theorem raise_rspStart (s : State) (c : Code) : (s.raise c).rspStart = s.rspStart := rfl
@[simp] theorem raise_rspQty (s : State) (c : Code) : (s.raise c).rspQty = s.rspQty := rfl
@[simp] theorem raise_bytecnt (s : State) (c : Code) : (s.raise c).bytecnt = s.bytecnt := rfl
@[simp] theorem raise_rblen (s : State) (c : Code) : (s.raise c).rblen = s.rblen := rfl
@[simp] theorem raise_regaddr (s : State) (c : Code) : (s.raise c).regaddr = s.regaddr := rfl
@[simp] theorem raise_reglen (s : State) (c : Code) : (s.raise c).reglen = s.reglen := rfl
@[simp] theorem raise_regb0 (s : State) (c : Code) : (s.raise c).regb0 = s.regb0 := rfl
@[simp] theorem raise_regb1 (s : State) (c : Code) : (s.raise c).regb1 = s.regb1 := rfl
@[simp] theorem raise_mem (s : State) (c : Code) : (s.raise c).mem = s.mem := rfl
@[simp] theorem raise_ret (s : State) (c : Code) : (s.raise c).ret = s.ret := rfl
@[simp] theorem raise_par (s : State) (c : Code) : (s.raise c).par = s.par := rfl
@[simp] theorem raise_port (s : State) (c : Code) : (s.raise c).port = s.port := rfl
@[simp] theorem raise_answers (s : State) (c : Code) : (s.raise c).answers = s.answers := rfl
@[simp] theorem raise_draws (s : State) (c : Code) : (s.raise c).draws = s.draws := rfl
@[simp] theorem raise_calls (s : State) (c : Code) : (s.raise c).calls = s.calls := rfl

/-! ### give -/

@[simp] theorem give_status (s : State) (v : Option RetVal) : (s.give v).status = s.status := rfl
@[simp] theorem give_cfg (s : State) (v : Option RetVal) : (s.give v).cfg = s.cfg := rfl
@[simp] theorem give_crc (s : State) (v : Option RetVal) : (s.give v).crc = s.crc := rfl
@[simp] theorem give_lrcr (s : State) (v : Option RetVal) : (s.give v).lrcr = s.lrcr := rfl
@[simp] theorem give_rdlen (s : State) (v : Option RetVal) : (s.give v).rdlen = s.rdlen := rfl
@[simp] theorem give_rspStart (s : State) (v : Option RetVal) : (s.give v).rspStart = s.rspStart := rfl
@[simp] theorem give_rspQty (s : State) (v : Option RetVal) : (s.give v).rspQty = s.rspQty := rfl
@[simp] theorem give_bytecnt (s : State) (v : Option RetVal) : (s.give v).bytecnt = s.bytecnt := rfl
@[simp] theorem give_rblen (s : State) (v : Option RetVal) : (s.give v).rblen = s.rblen := rfl
@[simp] theorem give_regaddr (s : State) (v : Option RetVal) : (s.give v).regaddr = s.regaddr := rfl
@[simp] theorem give_reglen (s : State) (v : Option RetVal) : (s.give v).reglen = s.reglen := rfl
@[simp] theorem give_regb0 (s : State) (v : Option RetVal) : (s.give v).regb0 = s.regb0 := rfl
@[simp] theorem give_regb1 (s : State) (v : Option RetVal) : (s.give v).regb1 = s.regb1 := rfl
@[simp] theorem give_mem (s : State) (v : Option RetVal) : (s.give v).mem = s.mem := rfl
@[simp] theorem give_ret (s : State) (v : Option RetVal) : (s.give v).ret = v := rfl
@[simp] theorem give_par (s : State) (v : Option RetVal) : (s.give v).par = s.par := rfl
@[simp] theorem give_port (s : State) (v : Option RetVal) : (s.give v).port = s.port := rfl
@[simp] theorem give_answers (s : State) (v : Option RetVal) : (s.give v).answers = s.answers := rfl
@[simp] theorem give_draws (s : State) (v : Option RetVal) : (s.give v).draws = s.draws := rfl
@[simp] theorem give_calls (s : State) (v : Option RetVal) : (s.give v).calls = s.calls := rfl

/-! ### endWith -/

@[simp] theorem endWith_status (s : State) (c : Code) :
    (s.endWith c).status = ⟨c.num, s.status.rspValid, s.status.cfgValid⟩ := rfl
@[simp] theorem endWith_cfg (s : State) (c : Code) : (s.endWith c).cfg = s.cfg := rfl
@[simp] theorem endWith_crc (s : State) (c : Code) : (s.endWith c).crc = s.crc := rfl
@[simp] theorem endWith_lrcr (s : State) (c : Code) : (s.endWith c).lrcr = s.lrcr := rfl
@[simp] theorem endWith_rdlen (s : State) (c : Code) : (s.endWith c).rdlen = s.rdlen := rfl
@[simp] theorem endWith_rspStart (s : State) (c : Code) : (s.endWith c).rspStart = s.rspStart := rfl
@[simp] theorem endWith_rspQty (s : State) (c : Code) : (s.endWith c).rspQty = s.rspQty := rfl
@[simp] theorem endWith_bytecnt (s : State) (c : Code) : (s.endWith c).bytecnt = s.bytecnt := rfl
@[simp] theorem endWith_rblen (s : State) (c : Code) : (s.endWith c).rblen = s.rblen := rfl
@[simp] theorem endWith_regaddr (s : State) (c : Code) : (s.endWith c).regaddr = s.regaddr := rfl
@[simp] theorem endWith_reglen (s : State) (c : Code) : (s.endWith c).reglen = s.reglen := rfl
@[simp] theorem endWith_regb0 (s : State) (c : Code) : (s.endWith c).regb0 = s.regb0 := rfl
@[simp] theorem endWith_regb1 (s : State) (c : Code) : (s.endWith c).regb1 = s.regb1 := rfl
@[simp] theorem endWith_mem (s : State) (c : Code) : (s.endWith c).mem = s.mem := rfl
@[simp] theorem endWith_ret (s : State) (c : Code) : (s.endWith c).ret = none := rfl
@[simp] theorem endWith_par (s : State) (c : Code) : (s.endWith c).par = s.par := rfl
@[simp] theorem endWith_port (s : State) (c : Code) : (s.endWith c).port = s.port := rfl
@[simp] theorem endWith_answers (s : State) (c : Code) : (s.endWith c).answers = s.answers := rfl
@[simp] theorem endWith_draws (s : State) (c : Code) : (s.endWith c).draws = s.draws := rfl
@[simp] theorem endWith_calls (s : State) (c : Code) : (s.endWith c).calls = s.calls := rfl

/-! ### illegalCommand -/

@[simp] theorem illegalCommand_status (s : State) :
    (illegalCommand s).status = ⟨15, s.status.rspValid, s.status.cfgValid⟩ := rfl
@[simp] theorem illegalCommand_cfg (s : State) : (illegalCommand s).cfg = s.cfg := rfl
@[simp] theorem illegalCommand_crc (s : State) : (illegalCommand s).crc = s.crc := rfl
@[simp] theorem illegalCommand_lrcr (s : State) : (illegalCommand s).lrcr = s.lrcr := rfl
@[simp] theorem illegalCommand_rdlen (s : State) : (illegalCommand s).rdlen = s.rdlen := rfl
@[simp] theorem illegalCommand_rspStart (s : State) : (illegalCommand s).rspStart = s.rspStart := rfl
@[simp] theorem illegalCommand_rspQty (s : State) : (illegalCommand s).rspQty = s.rspQty := rfl
@[simp] theorem illegalCommand_bytecnt (s : State) : (illegalCommand s).bytecnt = s.bytecnt := rfl
@[simp] theorem illegalCommand_rblen (s : State) : (illegalCommand s).rblen = s.rblen := rfl
@[simp] theorem illegalCommand_regaddr (s : State) : (illegalCommand s).regaddr = s.regaddr := rfl
@[simp] theorem illegalCommand_reglen (s : State) : (illegalCommand s).reglen = s.reglen := rfl
@[simp] theorem illegalCommand_regb0 (s : State) : (illegalCommand s).regb0 = s.regb0 := rfl
@[simp] theorem illegalCommand_regb1 (s : State) : (illegalCommand s).regb1 = s.regb1 := rfl
@[simp] theorem illegalCommand_mem (s : State) : (illegalCommand s).mem = s.mem := rfl
@[simp] theorem illegalCommand_ret (s : State) : (illegalCommand s).ret = some 0 := rfl
@[simp] theorem illegalCommand_par (s : State) : (illegalCommand s).par = s.par := rfl
@[simp] theorem illegalCommand_port (s : State) : (illegalCommand s).port = s.port := rfl
@[simp] theorem illegalCommand_answers (s : State) : (illegalCommand s).answers = s.answers := rfl
@[simp] theorem illegalCommand_draws (s : State) : (illegalCommand s).draws = s.draws := rfl
@[simp] theorem illegalCommand_calls (s : State) : (illegalCommand s).calls = s.calls := rfl

/-! ### call -/

@[simp] theorem call_status (s : State) (c : TransportCall) : (s.call c).status = s.status := rfl
@[simp] theorem call_cfg (s : State) (c : TransportCall) : (s.call c).cfg = s.cfg := rfl
@[simp] theorem call_crc (s : State) (c : TransportCall) : (s.call c).crc = s.crc := rfl
@[simp] theorem call_lrcr (s : State) (c : TransportCall) : (s.call c).lrcr = s.lrcr := rfl
@[simp] theorem call_rdlen (s : State) (c : TransportCall) : (s.call c).rdlen = s.rdlen := rfl
@[simp] theorem call_rspStart (s : State) (c : TransportCall) : (s.call c).rspStart = s.rspStart := rfl
@[simp] theorem call_rspQty (s : State) (c : TransportCall) : (s.call c).rspQty = s.rspQty := rfl
@[simp] theorem call_bytecnt (s : State) (c : TransportCall) : (s.call c).bytecnt = s.bytecnt := rfl
@[simp] theorem call_rblen (s : State) (c : TransportCall) : (s.call c).rblen = s.rblen := rfl
@[simp] theorem call_regaddr (s : State) (c : TransportCall) : (s.call c).regaddr = s.regaddr := rfl
@[simp] theorem call_reglen (s : State) (c : TransportCall) : (s.call c).reglen = s.reglen := rfl
@[simp] theorem call_regb0 (s : State) (c : TransportCall) : (s.call c).regb0 = s.regb0 := rfl
@[simp] theorem call_regb1 (s : State) (c : TransportCall) : (s.call c).regb1 = s.regb1 := rfl
@[simp] theorem call_mem (s : State) (c : TransportCall) : (s.call c).mem = s.mem := rfl
@[simp] theorem call_ret (s : State) (c : TransportCall) : (s.call c).ret = s.ret := rfl
@[simp] theorem call_par (s : State) (c : TransportCall) : (s.call c).par = s.par := rfl
@[simp] theorem call_port (s : State) (c : TransportCall) : (s.call c).port = s.port := rfl
@[simp] theorem call_answers (s : State) (c : TransportCall) : (s.call c).answers = s.answers := rfl
@[simp] theorem call_draws (s : State) (c : TransportCall) : (s.call c).draws = s.draws := rfl
@[simp] theorem call_calls (s : State) (c : TransportCall) : (s.call c).calls = s.calls ++ [c] := rfl

/-! ### prepareRead -/

@[simp] theorem prepareRead_status (s : State) (start qty : BitVec 16) :
    (s.prepareRead start qty).status = ⟨s.status.code, false, s.status.cfgValid⟩ := rfl
@[simp] theorem prepareRead_cfg (s : State) (start qty : BitVec 16) :
    (s.prepareRead start qty).cfg = s.cfg := rfl
@[simp] theorem prepareRead_crc (s : State) (start qty : BitVec 16) :
    (s.prepareRead start qty).crc = s.crc := rfl
@[simp] theorem prepareRead_lrcr (s : State) (start qty : BitVec 16) :
    (s.prepareRead start qty).lrcr = s.lrcr := rfl
@[simp] theorem prepareRead_rdlen (s : State) (start qty : BitVec 16) :
    (s.prepareRead start qty).rdlen = .write (BitVec.ofNat 32 (readLength s.par s.cfg.mode qty)) := rfl
@[simp] theorem prepareRead_rspStart (s : State) (start qty : BitVec 16) :
    (s.prepareRead start qty).rspStart = .write start := rfl
@[simp] theorem prepareRead_rspQty (s : State) (start qty : BitVec 16) :
    (s.prepareRead start qty).rspQty = .write qty := rfl
@[simp] theorem prepareRead_bytecnt (s : State) (start qty : BitVec 16) :
    (s.prepareRead start qty).bytecnt = .write 0 := rfl
@[simp] theorem prepareRead_rblen (s : State) (start qty : BitVec 16) :
    (s.prepareRead start qty).rblen = .write 0 := rfl
@[simp] theorem prepareRead_regaddr (s : State) (start qty : BitVec 16) :
    (s.prepareRead start qty).regaddr = s.regaddr := rfl
@[simp] theorem prepareRead_reglen (s : State) (start qty : BitVec 16) :
    (s.prepareRead start qty).reglen = s.reglen := rfl
@[simp] theorem prepareRead_regb0 (s : State) (start qty : BitVec 16) :
    (s.prepareRead start qty).regb0 = s.regb0 := rfl
@[simp] theorem prepareRead_regb1 (s : State) (start qty : BitVec 16) :
    (s.prepareRead start qty).regb1 = s.regb1 := rfl
@[simp] theorem prepareRead_mem (s : State) (start qty : BitVec 16) :
    (s.prepareRead start qty).mem = ⟨s.mem.inb, s.mem.out, [], [], []⟩ := rfl
@[simp] theorem prepareRead_ret (s : State) (start qty : BitVec 16) :
    (s.prepareRead start qty).ret = s.ret := rfl
@[simp] theorem prepareRead_par (s : State) (start qty : BitVec 16) :
    (s.prepareRead start qty).par = s.par := rfl
@[simp] theorem prepareRead_port (s : State) (start qty : BitVec 16) :
    (s.prepareRead start qty).port = s.port := rfl
@[simp] theorem prepareRead_answers (s : State) (start qty : BitVec 16) :
    (s.prepareRead start qty).answers = s.answers := rfl
@[simp] theorem prepareRead_draws (s : State) (start qty : BitVec 16) :
    (s.prepareRead start qty).draws = s.draws := rfl
@[simp] theorem prepareRead_calls (s : State) (start qty : BitVec 16) :
    (s.prepareRead start qty).calls = s.calls := rfl

/-! ### deliver -/

@[simp] theorem deliver_status (s : State) (p : List Byte) :
    (s.deliver p).status = ⟨s.status.code, true, s.status.cfgValid⟩ := rfl
@[simp] theorem deliver_cfg (s : State) (p : List Byte) : (s.deliver p).cfg = s.cfg := rfl
@[simp] theorem deliver_crc (s : State) (p : List Byte) : (s.deliver p).crc = s.crc := rfl
@[simp] theorem deliver_lrcr (s : State) (p : List Byte) : (s.deliver p).lrcr = s.lrcr := rfl
@[simp] theorem deliver_rdlen (s : State) (p : List Byte) : (s.deliver p).rdlen = s.rdlen := rfl
@[simp] theorem deliver_rspStart (s : State) (p : List Byte) : (s.deliver p).rspStart = s.rspStart := rfl
@[simp] theorem deliver_rspQty (s : State) (p : List Byte) : (s.deliver p).rspQty = s.rspQty := rfl
@[simp] theorem deliver_bytecnt (s : State) (p : List Byte) :
    (s.deliver p).bytecnt = .write (byteCount p) := rfl
@[simp] theorem deliver_rblen (s : State) (p : List Byte) :
    (s.deliver p).rblen = .write (BitVec.ofNat 8 (registerBytes p).length) := rfl
@[simp] theorem deliver_regaddr (s : State) (p : List Byte) : (s.deliver p).regaddr = s.regaddr := rfl
@[simp] theorem deliver_reglen (s : State) (p : List Byte) : (s.deliver p).reglen = s.reglen := rfl
@[simp] theorem deliver_regb0 (s : State) (p : List Byte) : (s.deliver p).regb0 = s.regb0 := rfl
@[simp] theorem deliver_regb1 (s : State) (p : List Byte) : (s.deliver p).regb1 = s.regb1 := rfl
@[simp] theorem deliver_mem (s : State) (p : List Byte) : (s.deliver p).mem = s.mem.setBuf .pay p := rfl
@[simp] theorem deliver_ret (s : State) (p : List Byte) : (s.deliver p).ret = s.ret := rfl
@[simp] theorem deliver_par (s : State) (p : List Byte) : (s.deliver p).par = s.par := rfl
@[simp] theorem deliver_port (s : State) (p : List Byte) : (s.deliver p).port = s.port := rfl
@[simp] theorem deliver_answers (s : State) (p : List Byte) : (s.deliver p).answers = s.answers := rfl
@[simp] theorem deliver_draws (s : State) (p : List Byte) : (s.deliver p).draws = s.draws := rfl
@[simp] theorem deliver_calls (s : State) (p : List Byte) : (s.deliver p).calls = s.calls := rfl

/-! ### resetBlock -/

@[simp] theorem resetBlock_status (s : State) : (resetBlock s).status = State.reset.status := rfl
@[simp] theorem resetBlock_cfg (s : State) : (resetBlock s).cfg = State.reset.cfg := rfl
@[simp] theorem resetBlock_crc (s : State) : (resetBlock s).crc = State.reset.crc := rfl
@[simp] theorem resetBlock_lrcr (s : State) : (resetBlock s).lrcr = State.reset.lrcr := rfl
@[simp] theorem resetBlock_rdlen (s : State) : (resetBlock s).rdlen = State.reset.rdlen := rfl
@[simp] theorem resetBlock_rspStart (s : State) : (resetBlock s).rspStart = State.reset.rspStart := rfl
@[simp] theorem resetBlock_rspQty (s : State) : (resetBlock s).rspQty = State.reset.rspQty := rfl
@[simp] theorem resetBlock_bytecnt (s : State) : (resetBlock s).bytecnt = State.reset.bytecnt := rfl
@[simp] theorem resetBlock_rblen (s : State) : (resetBlock s).rblen = State.reset.rblen := rfl
@[simp] theorem resetBlock_regaddr (s : State) : (resetBlock s).regaddr = State.reset.regaddr := rfl
@[simp] theorem resetBlock_reglen (s : State) : (resetBlock s).reglen = State.reset.reglen := rfl
@[simp] theorem resetBlock_regb0 (s : State) : (resetBlock s).regb0 = State.reset.regb0 := rfl
@[simp] theorem resetBlock_regb1 (s : State) : (resetBlock s).regb1 = State.reset.regb1 := rfl
@[simp] theorem resetBlock_mem (s : State) : (resetBlock s).mem = State.reset.mem := rfl
@[simp] theorem resetBlock_ret (s : State) : (resetBlock s).ret = State.reset.ret := rfl
@[simp] theorem resetBlock_par (s : State) : (resetBlock s).par = s.par := rfl
@[simp] theorem resetBlock_port (s : State) : (resetBlock s).port = s.port := rfl
@[simp] theorem resetBlock_answers (s : State) : (resetBlock s).answers = s.answers := rfl
@[simp] theorem resetBlock_draws (s : State) : (resetBlock s).draws = s.draws := rfl
@[simp] theorem resetBlock_calls (s : State) : (resetBlock s).calls = s.calls := rfl

/-! ### drawn: only the transport's side moves -/

@[simp] theorem drawn_status (s : State) : s.drawn.status = s.status := by unfold State.drawn; split <;> rfl
@[simp] theorem drawn_cfg (s : State) : s.drawn.cfg = s.cfg := by unfold State.drawn; split <;> rfl
@[simp] theorem drawn_crc (s : State) : s.drawn.crc = s.crc := by unfold State.drawn; split <;> rfl
@[simp] theorem drawn_lrcr (s : State) : s.drawn.lrcr = s.lrcr := by unfold State.drawn; split <;> rfl
@[simp] theorem drawn_rdlen (s : State) : s.drawn.rdlen = s.rdlen := by unfold State.drawn; split <;> rfl
@[simp] theorem drawn_rspStart (s : State) : s.drawn.rspStart = s.rspStart := by unfold State.drawn; split <;> rfl
@[simp] theorem drawn_rspQty (s : State) : s.drawn.rspQty = s.rspQty := by unfold State.drawn; split <;> rfl
@[simp] theorem drawn_bytecnt (s : State) : s.drawn.bytecnt = s.bytecnt := by unfold State.drawn; split <;> rfl
@[simp] theorem drawn_rblen (s : State) : s.drawn.rblen = s.rblen := by unfold State.drawn; split <;> rfl
@[simp] theorem drawn_regaddr (s : State) : s.drawn.regaddr = s.regaddr := by unfold State.drawn; split <;> rfl
@[simp] theorem drawn_reglen (s : State) : s.drawn.reglen = s.reglen := by unfold State.drawn; split <;> rfl
@[simp] theorem drawn_regb0 (s : State) : s.drawn.regb0 = s.regb0 := by unfold State.drawn; split <;> rfl
@[simp] theorem drawn_regb1 (s : State) : s.drawn.regb1 = s.regb1 := by unfold State.drawn; split <;> rfl
@[simp] theorem drawn_mem (s : State) : s.drawn.mem = s.mem := by unfold State.drawn; split <;> rfl
@[simp] theorem drawn_ret (s : State) : s.drawn.ret = s.ret := by unfold State.drawn; split <;> rfl
@[simp] theorem drawn_par (s : State) : s.drawn.par = s.par := by unfold State.drawn; split <;> rfl
@[simp] theorem drawn_port (s : State) : s.drawn.port = s.port := by unfold State.drawn; split <;> rfl
@[simp] theorem drawn_calls (s : State) : s.drawn.calls = s.calls := by unfold State.drawn; split <;> rfl
@[simp] theorem drawn_answers (s : State) : s.drawn.answers = s.answers.tail := by
  unfold State.drawn; split <;> simp_all

end Sys2Proof.Machine
end

