-- ==== Sys2Proof/Laws/Ops.lean ====
section
/-! SUPPORT. What the shared operations do: to buffers, to registers as the host reads them, to frames, and
to the capacity bounds of the buffers. -/

namespace Sys2Proof.Machine

/-! ### Buffers -/

@[simp] theorem Memory.buf_setBuf_same (m : Memory) (sp : Space) (b : List Byte) :
    (m.setBuf sp b).buf sp = b := by cases sp <;> rfl

theorem Memory.buf_setBuf_other {sp sp' : Space} (h : sp' ≠ sp) (m : Memory) (b : List Byte) :
    (m.setBuf sp b).buf sp' = m.buf sp' := by cases sp <;> cases sp' <;> first | rfl | exact absurd rfl h

@[simp] theorem buf_setBuf_same (s : State) (sp : Space) (b : List Byte) : (s.setBuf sp b).buf sp = b :=
  s.mem.buf_setBuf_same sp b

theorem buf_setBuf_other {sp sp' : Space} (h : sp' ≠ sp) (s : State) (b : List Byte) :
    (s.setBuf sp b).buf sp' = s.buf sp' := s.mem.buf_setBuf_other h b

@[simp] theorem buf_raise (s : State) (c : Code) (sp : Space) : (s.raise c).buf sp = s.buf sp := rfl
@[simp] theorem buf_give (s : State) (v : Option RetVal) (sp : Space) : (s.give v).buf sp = s.buf sp := rfl
@[simp] theorem buf_endWith (s : State) (c : Code) (sp : Space) : (s.endWith c).buf sp = s.buf sp := rfl
@[simp] theorem buf_illegalCommand (s : State) (sp : Space) : (illegalCommand s).buf sp = s.buf sp := rfl
@[simp] theorem buf_call (s : State) (c : TransportCall) (sp : Space) : (s.call c).buf sp = s.buf sp := rfl
@[simp] theorem buf_drawn (s : State) (sp : Space) : s.drawn.buf sp = s.buf sp := by simp [State.buf]

/-- Two states with the same bytes at every index of a buffer have the same buffer. -/
theorem buf_eq_of_readByte {s t : State} {sp : Space} (h : ∀ k, t.readByte sp k = s.readByte sp k) :
    t.buf sp = s.buf sp := List.ext_getElem? h

theorem readByte_of_buf {s t : State} {sp : Space} (h : t.buf sp = s.buf sp) (k : Nat) :
    t.readByte sp k = s.readByte sp k := by simp [State.readByte, h]

/-! ### Registers -/

@[simp] theorem Latch.write_value {w : Nat} (v : BitVec w) : (Latch.write v).value = v := rfl
@[simp] theorem Latch.write_written {w : Nat} (v : BitVec w) : (Latch.write v).written = true := rfl
@[simp] theorem Latch.read_write {w : Nat} (v : BitVec w) : (Latch.write v).read = some (v.setWidth 32) := rfl

/-- A register can be read exactly when its written flag is set (10_state.md rule R26). -/
theorem readReg_isSome (s : State) (r : Reg) : (s.readReg r).isSome = s.writtenFlag r := by
  cases r <;> simp only [State.readReg, State.writtenFlag, Latch.read] <;>
    first | rfl | (split <;> simp_all)

/-- Leaving an outcome changes no register but STATUS. -/
theorem readReg_raise {r : Reg} (h : r ≠ .status) (s : State) (c : Code) :
    (s.raise c).readReg r = s.readReg r := by cases r <;> first | rfl | exact absurd rfl h

@[simp] theorem readReg_give (s : State) (v : Option RetVal) (r : Reg) :
    (s.give v).readReg r = s.readReg r := by cases r <;> rfl

@[simp] theorem readReg_call (s : State) (c : TransportCall) (r : Reg) :
    (s.call c).readReg r = s.readReg r := by cases r <;> rfl

@[simp] theorem readReg_drawn (s : State) (r : Reg) : s.drawn.readReg r = s.readReg r := by
  cases r <;> simp [State.readReg, State.len]

theorem readReg_endWith {r : Reg} (h : r ≠ .status) (s : State) (c : Code) :
    (s.endWith c).readReg r = s.readReg r := by cases r <;> first | rfl | exact absurd rfl h

/-- The length register of a buffer (10_state.md rule R32). -/
def lengthReg : Space → Reg
  | .inb => .inlen
  | .out => .outlen
  | .tx => .txlen
  | .rx => .rxlen
  | .pay => .paylen

/-- Replacing a buffer changes no register but its length register. -/
theorem readReg_setBuf {r : Reg} {sp : Space} (h : r ≠ lengthReg sp) (s : State) (b : List Byte) :
    (s.setBuf sp b).readReg r = s.readReg r := by
  cases sp <;> cases r <;> first | rfl | exact absurd rfl h

@[simp] theorem readReg_lengthReg (s : State) (sp : Space) : s.readReg (lengthReg sp) = some (s.len sp) := by
  cases sp <;> rfl

/-! ### Frames -/

theorem regsKept.refl (l : List Reg) (s : State) : regsKept l s s := fun _ _ => rfl
theorem bytesKept.refl (l : List Space) (s : State) : bytesKept l s s := fun _ _ _ => rfl

theorem regsKept.trans {l : List Reg} {s t u : State} (h : regsKept l s t) (h' : regsKept l t u) :
    regsKept l s u := fun r hr => (h' r hr).trans (h r hr)

theorem bytesKept.trans {l : List Space} {s t u : State} (h : bytesKept l s t) (h' : bytesKept l t u) :
    bytesKept l s u := fun sp k hk => (h' sp k hk).trans (h sp k hk)

theorem regsKept.mono {l l' : List Reg} {s t : State} (h : regsKept l s t) (hl : ∀ r ∈ l, r ∈ l') :
    regsKept l' s t := fun r hr => h r fun hm => hr (hl r hm)

theorem bytesKept.mono {l l' : List Space} {s t : State} (h : bytesKept l s t) (hl : ∀ r ∈ l, r ∈ l') :
    bytesKept l' s t := fun sp k hk => h sp k fun hm => hk (hl sp hm)

/-- Buffers equal outside a list: every byte outside it reads as before. -/
theorem bytesKept_of_buf {l : List Space} {s t : State} (h : ∀ sp, sp ∉ l → t.buf sp = s.buf sp) :
    bytesKept l s t := fun sp k hk => readByte_of_buf (h sp hk) k

theorem bytesKept_setBuf (s : State) (sp : Space) (b : List Byte) : bytesKept [sp] s (s.setBuf sp b) :=
  bytesKept_of_buf fun _ h => buf_setBuf_other (by simpa using h) s b

theorem regsKept_setBuf (s : State) (sp : Space) (b : List Byte) :
    regsKept [lengthReg sp] s (s.setBuf sp b) :=
  fun _ h => readReg_setBuf (by simpa using h) s b

theorem regsKept_endWith (s : State) (c : Code) : regsKept [.status] s (s.endWith c) :=
  fun _ h => readReg_endWith (by simpa using h) s c

/-- The illegal command has the whole effect of 30_encoding.md rule R120 and no other. -/
theorem illegalCommand_effect (s : State) : illegalEffect s (illegalCommand s) := by
  refine ⟨rfl, ⟨rfl, rfl⟩, rfl, fun r h => ?_, fun _ _ _ => rfl, ⟨rfl, rfl, rfl⟩, rfl, rfl⟩
  cases r <;> first | rfl | simp at h

/-! ### Capacity bounds (10_state.md rule R25) -/

theorem Memory.wf_iff (p : Params) (m : Memory) : m.wf p = true ↔
    m.inb.length ≤ p.inMax ∧ m.out.length ≤ 17 + 2 * p.inMax ∧
    (m.tx.length = 0 ∨ m.tx.length = 8 ∨ m.tx.length = 17) ∧
    m.rx.length ≤ max 131075 p.asciiRxMax ∧ m.pay.length ≤ m.rx.length := by
  simp only [Memory.wf, Bool.and_eq_true, Bool.or_eq_true, decide_eq_true_eq, beq_iff_eq]
  tauto

theorem Memory.wf_append {p : Params} {m : Memory} (h : m.wf p = true) (room : m.inb.length ≠ p.inMax)
    (b : Byte) : (m.setBuf .inb (m.inb ++ [b])).wf p = true := by
  rw [Memory.wf_iff] at *
  simp only [Memory.setBuf, List.length_append, List.length_singleton]
  omega

theorem Memory.wf_clear {p : Params} {m : Memory} (h : m.wf p = true) :
    (m.setBuf .inb []).wf p = true := by
  rw [Memory.wf_iff] at *; simp only [Memory.setBuf, List.length_nil]; omega

theorem Memory.wf_setOut {p : Params} {m : Memory} (h : m.wf p = true) {b : List Byte}
    (hb : b.length ≤ 17 + 2 * p.inMax) : (m.setBuf .out b).wf p = true := by
  rw [Memory.wf_iff] at *; simp only [Memory.setBuf]; omega

/-- The framer's buffers after any RDREGS: a request or none, bytes read, a payload no longer than them. -/
theorem Memory.wf_setFramer {p : Params} {m : Memory} (h : m.wf p = true) {tx rx pay : List Byte}
    (ht : tx.length = 0 ∨ tx.length = 8 ∨ tx.length = 17) (hr : rx.length ≤ max 131075 p.asciiRxMax)
    (hp : pay.length ≤ rx.length) : (Memory.mk m.inb m.out tx rx pay).wf p = true := by
  rw [Memory.wf_iff] at *; simp only; omega

theorem Memory.wf_reset (p : Params) : (Memory.mk [] [] [] [] []).wf p = true := by
  rw [Memory.wf_iff]; simp

end Sys2Proof.Machine
end

