-- ==== Sys2Proof/Laws/Framer.lean ====
section
/-! SUPPORT. What an RDREGS can do, once: its four ends, and the outcomes of its classification. -/

namespace Sys2Proof.Machine

/-- After T0 the transport's answers and the flush: nothing else differs from the prepared state. -/
def afterFlush (s : State) (start qty : BitVec 16) : State :=
  (s.prepareRead start qty).drawn.call .resetInputBuffer

/-- After T2. -/
def afterWrite (s : State) (start qty : BitVec 16) : State :=
  ((afterFlush s start qty).setBuf .tx (requestFrame s.cfg start qty)).call
    (.write (requestFrame s.cfg start qty))

/-- After T3. -/
def afterRead (s : State) (start qty : BitVec 16) : State :=
  ((afterWrite s start qty).call (.read (readLength s.par s.cfg.mode qty))).setBuf .rx
    (s.nextAnswers.read (readLength s.par s.cfg.mode qty))

/-- The four ends of an in-contract RDREGS (42_read_framer.md rule R181). -/
theorem execRdregs_cases {s t : State} {start qty : BitVec 16} (hc : s.status.cfgValid = true)
    (h : execRdregs start qty s = .next t) :
    (s.nextAnswers.flushOk = false ∧ t = (afterFlush s start qty).endWith .transportUnavailable) ∨
    (s.nextAnswers.flushOk = true ∧ s.nextAnswers.writeOk = false ∧
      t = (afterWrite s start qty).endWith .transportUnavailable) ∨
    (s.nextAnswers.flushOk = true ∧ s.nextAnswers.writeOk = true ∧ ∃ c,
      classify s.par.hexLowerOk s.cfg.mode qty (s.nextAnswers.read (readLength s.par s.cfg.mode qty)) =
        .error c ∧ t = (afterRead s start qty).endWith c) ∨
    (s.nextAnswers.flushOk = true ∧ s.nextAnswers.writeOk = true ∧ ∃ p,
      classify s.par.hexLowerOk s.cfg.mode qty (s.nextAnswers.read (readLength s.par s.cfg.mode qty)) =
        .ok p ∧ t = ((afterRead s start qty).deliver p).endWith .ok) := by
  simp only [execRdregs, hc, if_true, Host.Outcome.next.injEq] at h
  subst h
  simp only [State.flushStep, State.writeStep, State.readStep, State.classified]
  cases s.nextAnswers.flushOk
  · exact .inl ⟨rfl, rfl⟩
  cases s.nextAnswers.writeOk
  · exact .inr (.inl ⟨rfl, rfl, by simp [afterWrite, afterFlush]⟩)
  simp only [if_true, call_par, call_cfg, setBuf_par, setBuf_cfg, drawn_par, drawn_cfg, prepareRead_par,
    prepareRead_cfg, buf_setBuf_same]
  right; right
  split <;> rename_i hcl
  · exact .inl ⟨trivial, trivial, _, hcl, by simp [afterRead, afterWrite, afterFlush]⟩
  · exact .inr ⟨trivial, trivial, _, hcl, by simp [afterRead, afterWrite, afterFlush]⟩

theorem execRdregs_next {s : State} {start qty : BitVec 16} (hc : s.status.cfgValid = true) :
    ∃ t, execRdregs start qty s = .next t := by simp [execRdregs, hc]

/-- The outcomes a parser can raise (41_frame_codec.md rules R155, R160). -/
theorem parseRtu_error {raw : List Byte} {c : Code} (h : parseRtu raw = .error c) :
    c = .frameTooShort ∨ c = .checksumMismatch := by
  unfold parseRtu at h
  split at h
  · injection h with h; exact .inl h.symm
  split at h
  · injection h with h; exact .inr h.symm
  · cases h

theorem parseAscii_error {lowerOk : Bool} {raw : List Byte} {c : Code}
    (h : parseAscii lowerOk raw = .error c) : c = .framingError ∨ c = .checksumMismatch := by
  unfold parseAscii at h
  split at h
  · injection h with h; exact .inl h.symm
  split at h
  · injection h with h; exact .inl h.symm
  split at h
  · injection h with h; exact .inl h.symm
  split at h
  · injection h with h; exact .inl h.symm
  split at h
  · injection h with h; exact .inr h.symm
  · cases h

/-- The payload of an accepted RTU frame is two bytes shorter than the frame. -/
theorem parseRtu_length {raw p : List Byte} (h : parseRtu raw = .ok p) : raw.length = p.length + 2 := by
  unfold parseRtu at h
  split at h
  · cases h
  split at h
  · cases h
  · injection h with h; subst h; rw [slice_length]; omega

/-- Why a response is not delivered (42_read_framer.md rules R185 to R188). -/
theorem classify_error {lowerOk : Bool} {mode : Mode} {qty : BitVec 16} {rx : List Byte} {c : Code}
    (h : classify lowerOk mode qty rx = .error c) :
    (rx = [] ∧ c = .noResponse) ∨
    (rx ≠ [] ∧ mode = .rtu ∧ rx.length < 5 + 2 * qty.toNat ∧ c = .shortResponse) ∨
    (rx ≠ [] ∧ ¬ (mode = .rtu ∧ rx.length < 5 + 2 * qty.toNat) ∧ parseAs lowerOk mode rx = .error c) ∨
    (rx ≠ [] ∧ ¬ (mode = .rtu ∧ rx.length < 5 + 2 * qty.toNat) ∧
      ∃ p, parseAs lowerOk mode rx = .ok p ∧ p.length < 3 ∧ c = .payloadTooShort) := by
  unfold classify at h
  split at h
  · injection h with h; rename_i h0; exact .inl ⟨List.length_eq_zero_iff.mp h0, h.symm⟩
  rename_i h0
  have hne : rx ≠ [] := fun e => h0 (by rw [e]; rfl)
  split at h
  · rename_i h1; injection h with h; exact .inr (.inl ⟨hne, h1.1, h1.2, h.symm⟩)
  rename_i h1
  split at h
  · rename_i hp; injection h with h; subst h; exact .inr (.inr (.inl ⟨hne, h1, hp⟩))
  rename_i p hp
  split at h
  · injection h with h; exact .inr (.inr (.inr ⟨hne, h1, p, hp, by assumption, h.symm⟩))
  · cases h

/-- What a delivered response is (42_read_framer.md rule R190). -/
theorem classify_ok {lowerOk : Bool} {mode : Mode} {qty : BitVec 16} {rx p : List Byte}
    (h : classify lowerOk mode qty rx = .ok p) :
    rx ≠ [] ∧ ¬ (mode = .rtu ∧ rx.length < 5 + 2 * qty.toNat) ∧ parseAs lowerOk mode rx = .ok p ∧
    3 ≤ p.length := by
  unfold classify at h
  split at h
  · cases h
  rename_i h0
  split at h
  · cases h
  rename_i h1
  split at h
  · cases h
  rename_i hp
  split at h
  · cases h
  · injection h with h; subst h
    exact ⟨fun e => h0 (by rw [e]; rfl), h1, hp, by omega⟩

/-- No failed classification leaves code 0, 3, 6 or 15 (42_read_framer.md rule R189). -/
theorem classify_error_code {lowerOk : Bool} {mode : Mode} {qty : BitVec 16} {rx : List Byte} {c : Code}
    (h : classify lowerOk mode qty rx = .error c) :
    c = .noResponse ∨ c = .shortResponse ∨ c = .checksumMismatch ∨ c = .framingError ∨
      c = .payloadTooShort := by
  rcases classify_error h with ⟨-, rfl⟩ | ⟨-, -, -, rfl⟩ | ⟨-, hs, hp⟩ | ⟨-, -, p, -, -, rfl⟩
  · simp
  · simp
  · cases mode with
    | ascii => rcases parseAscii_error hp with rfl | rfl <;> simp
    | rtu =>
      rcases parseRtu_error hp with rfl | rfl
      · exfalso
        simp only [parseAs, parseRtu] at hp
        split at hp
        · simp only [true_and, not_lt] at hs; omega
        split at hp <;> simp at hp
      · simp
  · simp

end Sys2Proof.Machine
end

