-- ==== Sys2Proof/Laws/PerInstr.lean ====
section
/-! SUPPORT. Facts about every command as syntax, one lemma per constructor: the opcode byte of its word. -/

/-- Bits 63:56 of a command's word are its row's opcode (30_encoding.md rules R110, R111). -/
def Sys2Proof.Laws.OpcodeByte.Statement (i : Sys2Proof.Instr) : Prop :=
  (Sys2Proof.encode i).extractLsb' 56 8 = i.op.code

namespace Sys2Proof.Laws.OpcodeByte

/-- The opcode byte of a joined word is the field `op`. -/
theorem word_op (f : Sys2Proof.Fields) : f.word.extractLsb' 56 8 = f.op := by
  apply BitVec.eq_of_getLsbD_eq
  intro i hi
  simp only [Sys2Proof.Fields.word, BitVec.getLsbD_extractLsb', BitVec.getLsbD_append]
  grind

theorem crc16 : Statement .crc16 := word_op _
theorem lrc : Statement .lrc := word_op _
theorem buildRtu (slave func : BitVec 8) (start qty : BitVec 16) :
    Statement (.buildRtu slave func start qty) := word_op _
theorem buildAscii (slave func : BitVec 8) (start qty : BitVec 16) :
    Statement (.buildAscii slave func start qty) := word_op _
theorem parseRtu : Statement .parseRtu := word_op _
theorem parseAscii : Statement .parseAscii := word_op _
theorem rdregs (start qty : BitVec 16) : Statement (.rdregs start qty) := word_op _
theorem regslice (index : BitVec 32) : Statement (.regslice index) := word_op _
theorem push (byte : Sys2Proof.Byte) : Statement (.push byte) := word_op _
theorem clrin : Statement .clrin := word_op _
theorem ldb (space : BitVec 3) (index : BitVec 32) : Statement (.ldb space index) := word_op _
theorem rdr (n : BitVec 5) : Statement (.rdr n) := word_op _
theorem setcfg (mode : Sys2Proof.Mode) (slave : BitVec 8) : Statement (.setcfg mode slave) := word_op _

end Sys2Proof.Laws.OpcodeByte
end

