-- ==== Sys2Proof/Laws/Step.lean ====
section
/-! SUPPORT. What a step can do, once, and how a run takes its first step. -/

namespace Sys2Proof.Machine

/-- What one command word does (30_encoding.md rules R114, R120). -/
theorem runWord_cases {w : Word} {s t : State} (h : runWord w s = .next t) :
    (∃ i, decode w = .ok i ∧ exec i s = .next t) ∨
    (∃ r, decode w = .error r ∧ t = illegalCommand s) := by
  unfold runWord at h
  split at h
  · exact .inl ⟨_, by assumption, h⟩
  · cases h; exact .inr ⟨_, by assumption, rfl⟩

/-- The four things a step can do. -/
theorem step_cases {s t : State} (h : step s = .next t) :
    (s.port = [] ∧ t = s) ∨
    (∃ w rest, s.port = .command w :: rest ∧ runWord w { s with port := rest } = .next t) ∨
    (∃ rest, s.port = .reset :: rest ∧ t = resetBlock { s with port := rest }) ∨
    (∃ w made rest u, s.port = .commandCutByReset w made :: rest ∧
      runWord w { s with port := rest } = .next u ∧
      t = resetCutting made { s with port := rest } u) := by
  unfold step at h
  split at h
  · rename_i hp; cases h; exact .inl ⟨hp, rfl⟩
  · rename_i w rest hp; exact .inr (.inl ⟨w, rest, hp, h⟩)
  · rename_i rest hp; cases h; exact .inr (.inr (.inl ⟨rest, hp, rfl⟩))
  · rename_i w made rest hp
    split at h
    · rename_i u hu; cases h; exact .inr (.inr (.inr ⟨w, made, rest, u, hp, hu, rfl⟩))
    · cases h
    · cases h

theorem run_succ_of_step {s t : State} {n : Nat} (h : step s = .next t) :
    Sys2Proof.core.run (n + 1) s = Sys2Proof.core.run n t := by
  have h' : Sys2Proof.core.step s = .next t := h
  simp only [Host.Core.run, h']

end Sys2Proof.Machine
end

