-- ==== Sys2Proof/Machine/Assembler.lean ====
section
/-! DEFINITION. The assembler syntax of 30_encoding.md rules R125 and R126: one line to command words. -/

namespace Sys2Proof.Machine

/-- The pieces of a text between occurrences of a separator. -/
def pieces (sep : Char) : List Char → List (List Char)
  | [] => [[]]
  | c :: t =>
    match pieces sep t with
    | [] => [[c]]
    | p :: ps => if c = sep then [] :: p :: ps else (c :: p) :: ps

/-- A text without the blanks around it. -/
def trimmed (t : List Char) : List Char :=
  ((t.dropWhile (· == ' ')).reverse.dropWhile (· == ' ')).reverse

/-- A digit's value in base 10 or 16. -/
def digitOfChar (base : Nat) (c : Char) : Option Nat :=
  let n := c.toNat
  let v := if 48 ≤ n ∧ n ≤ 57 then n - 48 else if 65 ≤ n ∧ n ≤ 70 then n - 55
    else if 97 ≤ n ∧ n ≤ 102 then n - 87 else base
  if v < base then some v else none

def digitsValue (base acc : Nat) : List Char → Option Nat
  | [] => some acc
  | c :: t =>
    match digitOfChar base c with
    | some v => digitsValue base (acc * base + v) t
    | none => none

/-- "numbers are decimal or `0x` hexadecimal" (30_encoding.md rule R125). -/
def numberOf : List Char → Option Nat
  | [] => none
  | '0' :: 'x' :: c :: t => digitsValue 16 0 (c :: t)
  | c :: t => digitsValue 10 0 (c :: t)

/-- A number, or the position of a name in a list of names (30_encoding.md rule R125). -/
def operandOf (names : List String) (t : List Char) : Option Nat :=
  match names.findIdx? (fun n => n.toList == t) with
  | some k => some k
  | none => numberOf t

def modeNames : List String := ["RTU", "ASCII"]

def spaceNames : List String := ["IN", "OUT", "TX", "RX", "PAY"]

/-- The register names of 10_state.md rule R24, by number. -/
def regNames : List String :=
  ["STATUS", "CFG", "INLEN", "OUTLEN", "TXLEN", "RXLEN", "PAYLEN", "CRC", "LRCR", "RDLEN", "RSP_START",
   "RSP_QTY", "BYTECNT", "RBLEN", "REGADDR", "REGLEN", "REGB0", "REGB1"]

/-- An operand in its field: a value the field cannot hold cannot be expressed (30_encoding.md rule R113). -/
def inField (w : Nat) (n : Option Nat) : Option (BitVec w) :=
  match n with
  | some n => if n < 2 ^ w then some (BitVec.ofNat w n) else none
  | none => none

/-- The words of well-formed commands. -/
def wordsOf (is : List Instr) : Option (List Word) :=
  if is.all WellFormed then some (is.map encode) else none

def allInField (w : Nat) : List (List Char) → Option (List (BitVec w))
  | [] => some []
  | t :: ts =>
    match inField w (numberOf t), allInField w ts with
    | some v, some vs => some (v :: vs)
    | _, _ => none

/-- A mnemonic with its operand texts (30_encoding.md rules R125, R126). -/
def assembleCommand (mnemonic : String) (ops : List (List Char)) : Option (List Word) :=
  let request (mk : BitVec 8 → BitVec 8 → BitVec 16 → BitVec 16 → Instr) : Option (List Word) :=
    match ops with
    | [a, b, c, d] =>
      match inField 8 (numberOf a), inField 8 (numberOf b), inField 16 (numberOf c),
          inField 16 (numberOf d) with
      | some slave, some func, some start, some qty => wordsOf [mk slave func start qty]
      | _, _, _, _ => none
    | _ => none
  let plain (i : Instr) : Option (List Word) := if ops = [] then wordsOf [i] else none
  let one (w : Nat) (names : List String) (mk : BitVec w → Option (List Word)) : Option (List Word) :=
    match ops with
    | [a] => (inField w (operandOf names a)).bind mk
    | _ => none
  let two (w v : Nat) (names : List String) (mk : BitVec w → BitVec v → Instr) : Option (List Word) :=
    match ops with
    | [a, b] =>
      match inField w (operandOf names a), inField v (numberOf b) with
      | some x, some y => wordsOf [mk x y]
      | _, _ => none
    | _ => none
  if mnemonic = "CRC16" then plain .crc16
  else if mnemonic = "LRC" then plain .lrc
  else if mnemonic = "BUILD.RTU" then request .buildRtu
  else if mnemonic = "BUILD.ASCII" then request .buildAscii
  else if mnemonic = "PARSE.RTU" then plain .parseRtu
  else if mnemonic = "PARSE.ASCII" then plain .parseAscii
  else if mnemonic = "RDREGS" then two 16 16 [] .rdregs
  else if mnemonic = "RDHOLD" then two 16 16 [] .rdregs
  else if mnemonic = "REGSLICE" then one 32 [] fun x => wordsOf [.regslice x]
  else if mnemonic = "PUSH" then one 8 [] fun x => wordsOf [.push x]
  else if mnemonic = "CLRIN" then plain .clrin
  else if mnemonic = "LDB" then two 3 32 spaceNames .ldb
  else if mnemonic = "RDR" then one 5 regNames fun x => wordsOf [.rdr x]
  else if mnemonic = "RDSTATUS" then if ops = [] then wordsOf pseudoRdstatus else none
  else if mnemonic = "SETCFG" then two 1 8 modeNames fun m slave => .setcfg (modeOfBit (m.getLsbD 0)) slave
  else if mnemonic = ".word" then one 64 [] fun x => some [x]
  else none

/-- One line: `;` starts a comment, the mnemonic ends at the first blank, operands are separated by commas
(those of LOAD by blanks); a line with nothing on it is no command (30_encoding.md rules R125, R126). -/
def assembleLine (line : String) : Option (List Word) :=
  let text := trimmed (line.toList.takeWhile (· != ';'))
  let mnemonic := text.takeWhile (· != ' ')
  let rest := trimmed (text.dropWhile (· != ' '))
  if text = [] then some []
  else if mnemonic = "LOAD".toList then
    (allInField 8 ((pieces ' ' rest).filter (· != []))).bind fun bytes => wordsOf (pseudoLoad bytes)
  else assembleCommand (String.ofList mnemonic)
    (if rest = [] then [] else (pieces ',' rest).map trimmed)

end Sys2Proof.Machine
end

