-- ==== Sys2Proof/Tests/Slice0.lean ====
section
/-! SUPPORT. The model's own tests. Expected results are the vectors of 95_test_vectors.md (named in each
section) or are read off the rule named; the last part shows, for the statements of
Certificates/Slice0/Obligations.lean, states and operands that meet their hypotheses. -/

namespace Sys2Proof.Tests

open Sys2Proof Sys2Proof.Machine

/-! ### Small states -/

/-- The state after reset with these bytes staged in INBUF. -/
def staged (bytes : List Byte) : State := { State.reset with mem := ⟨bytes, [], [], [], []⟩ }

/-- The state after reset and SETCFG, the transport answering as given. -/
def configured (mode : Mode) (slave : BitVec 8) (a : Answers) : State :=
  { State.reset with cfg := ⟨mode, slave⟩, status := ⟨0, false, true⟩, answers := [a] }

/-- The bytes F1 is answered with, and F9 to F12's variants of them, by byteCount. -/
def goodRx : List Byte := [0x01, 0x03, 0x06, 0x00, 0x01, 0x00, 0x02, 0xFF, 0xFF, 0xBC, 0xC5]

/-- FA1's answer, `:01030600010002FFFFF5\r\n`. -/
def goodRxAscii : List Byte :=
  [0x3A, 0x30, 0x31, 0x30, 0x33, 0x30, 0x36, 0x30, 0x30, 0x30, 0x31, 0x30, 0x30, 0x30, 0x32, 0x46, 0x46,
   0x46, 0x46, 0x46, 0x35, 0x0D, 0x0A]

/-- A state with a framed response for RDREGS 1000, 3 of byteCount `bc`, as F1, F9 or F11 leave it. -/
def framed (bc : Byte) : State :=
  { State.reset with
    status := ⟨0, true, true⟩
    cfg := ⟨.rtu, 1⟩
    rspStart := .write 1000
    rspQty := .write 3
    rdlen := .write 11
    bytecnt := .write bc
    rblen := .write bc
    mem := ⟨[], [], [0x01, 0x03, 0x03, 0xE8, 0x00, 0x03, 0x85, 0xBB],
      [0x01, 0x03, bc, 0x00, 0x01, 0x00, 0x02, 0xFF, 0xFF, 0x00, 0x00],
      [0x01, 0x03, bc, 0x00, 0x01, 0x00, 0x02, 0xFF, 0xFF]⟩ }

/-- One value of the next state. -/
def seen {α : Type} (f : State → α) : Host.Outcome State Fault Refusal → Option α
  | .next t => some (f t)
  | .fault _ => none
  | .refused _ => none

/-- STATUS.CODE, OUTBUF and the returned value. -/
def codeOutRet (t : State) : BitVec 4 × List Byte × Option RetVal := (t.status.code, t.buf .out, t.ret)

/-- CODE, RSP_VALID, RDLEN, TXLEN, RXLEN, PAYLEN, BYTECNT, RBLEN, number of calls: a row of section 4. -/
def framerRow (t : State) : List Nat :=
  [t.status.code.toNat, t.status.rspValid.toNat, t.rdlen.value.toNat, t.mem.tx.length, t.mem.rx.length,
   t.mem.pay.length, t.bytecnt.value.toNat, t.rblen.value.toNat, t.calls.length]

/-- REGADDR, REGLEN, REGB0, REGB1, CODE. -/
def sliceRow (t : State) : List Nat :=
  [t.regaddr.value.toNat, t.reglen.value.toNat, t.regb0.value.toNat, t.regb1.value.toNat,
   t.status.code.toNat]

/-! ### WellFormed refuses what the table's value constraints exclude (30_encoding.md rule R114) -/

theorem test_ldb_space_five_is_ill_formed : WellFormed (.ldb 5 0) = false := by decide
theorem test_rdr_eighteen_is_ill_formed : WellFormed (.rdr 18) = false := by decide
/-- Also the hypothesis of DecodeOfEncodeIsTheCommand. -/
theorem test_bounds_are_well_formed : WellFormed (.ldb 4 0xFFFFFFFF) = true ∧ WellFormed (.rdr 17) = true := by
  decide

/-! ### Decoding words written out from the encodings (95_test_vectors.md section 5.1), every constructor -/

theorem test_decode_crc16 : decode 0x0100000000000000#64 = .ok .crc16 := by decide
theorem test_decode_lrc : decode 0x0200000000000000#64 = .ok .lrc := by decide
theorem test_decode_buildRtu :
    decode 0x10010303E8000300#64 = .ok (.buildRtu 1 3 1000 3) ∧
    decode 0x10FFFFFFFFFFFF00#64 = .ok (.buildRtu 255 255 65535 65535) := by decide
theorem test_decode_buildAscii : decode 0x11010303E8000300#64 = .ok (.buildAscii 1 3 1000 3) := by decide
theorem test_decode_parseRtu : decode 0x2000000000000000#64 = .ok .parseRtu := by decide
theorem test_decode_parseAscii : decode 0x2100000000000000#64 = .ok .parseAscii := by decide
theorem test_decode_rdregs : decode 0x30000003E8000300#64 = .ok (.rdregs 1000 3) := by decide
theorem test_decode_regslice : decode 0x3100000000000200#64 = .ok (.regslice 2) := by decide
theorem test_decode_push : decode 0x40E8000000000000#64 = .ok (.push 0xE8) := by decide
theorem test_decode_clrin : decode 0x4100000000000000#64 = .ok .clrin := by decide
theorem test_decode_ldb :
    decode 0x4201000001117000#64 = .ok (.ldb 1 70000) ∧ decode 0x4204000000000300#64 = .ok (.ldb 4 3) := by
  decide
theorem test_decode_rdr : decode 0x430E000000000000#64 = .ok (.rdr 14) := by decide
theorem test_decode_setcfg :
    decode 0x5000010000000000#64 = .ok (.setcfg .rtu 1) ∧
    decode 0x5001110000000000#64 = .ok (.setcfg .ascii 17) := by decide

/-- The word of RDREGS 1000, 3 bit by bit: op 0011_0000, a and b zero, c = 03E8, d = 0003, z zero. -/
theorem test_decode_bits : decode
    0b0011000000000000000000000000001111101000000000000000001100000000#64 = .ok (.rdregs 1000 3) := by decide

/-- Section 5.3, rejected by name. -/
theorem test_decode_illegal :
    [0x0000000000000000#64, 0xFF00000000000000#64, 0x0300000000000000#64, 0x1200000000000000#64,
     0x2200000000000000#64, 0x3200000000000000#64, 0x4400000000000000#64, 0x5100000000000000#64].all
      (fun w => decode w = .error .unknownOpcode) ∧
    [0x0100000000000001#64, 0x0100010000000000#64, 0x10010303E8000301#64, 0x30010003E8000300#64,
     0x3100010000000000#64, 0x4001000000000100#64, 0x4201010000000000#64, 0x4300010000000000#64,
     0x5002010000000000#64, 0x5000010000000100#64].all (fun w => decode w = .error .mustBeZero) ∧
    decode 0x4205000000000000#64 = .error .spaceOutOfRange ∧
    decode 0x4312000000000000#64 = .error .registerOutOfRange := by decide

/-! ### The assembler (30_encoding.md rules R125, R126) -/

theorem test_assemble_build : assembleLine "BUILD.RTU 1, 3, 1000, 3" = some [0x10010303E8000300#64] := by
  decide +kernel
theorem test_assemble_names :
    assembleLine "SETCFG ASCII, 17 ; the slave" = some [0x5001110000000000#64] ∧
    assembleLine "LDB OUT, 70000" = some [0x4201000001117000#64] := by decide +kernel
theorem test_assemble_load :
    assembleLine "LOAD 0x01 0x03" =
      some [0x4100000000000000#64, 0x4001000000000000#64, 0x4003000000000000#64] := by decide +kernel

/-! ### Checksum family (section 2) -/

theorem test_crc16_k11 : seen codeOutRet (exec .crc16 (staged [0x01, 0x03, 0x03, 0xE8, 0x00, 0x03])) =
    some (0, [0x85, 0xBB], none) := by decide +kernel
theorem test_crc16_empty : seen (fun t => (t.crc, t.buf .out)) (exec .crc16 State.reset) =
    some (⟨0xFFFF, true⟩, [0xFF, 0xFF]) := by decide
theorem test_lrc_k11 : seen codeOutRet (exec .lrc (staged [0x01, 0x03, 0x03, 0xE8, 0x00, 0x03])) =
    some (0, [0x0E], none) := by decide
theorem test_lrc_k8_truncates : lrc [0x80, 0x80] = 0x00 ∧ lrc [0x80] = 0x80 := by decide

/-! ### Frame codec family (section 3) -/

theorem test_buildRtu_b4 : seen codeOutRet (exec (.buildRtu 1 0x10 0 1) (staged [0x02, 0x00, 0x05])) =
    some (0, [0x01, 0x10, 0x00, 0x00, 0x00, 0x01, 0x02, 0x00, 0x05, 0x66, 0x53], none) := by decide +kernel
theorem test_buildAscii_b1 : seen codeOutRet (exec (.buildAscii 1 3 1000 3) State.reset) =
    some (0, [0x3A, 0x30, 0x31, 0x30, 0x33, 0x30, 0x33, 0x45, 0x38, 0x30, 0x30, 0x30, 0x33, 0x30, 0x45,
      0x0D, 0x0A], none) := by decide +kernel
theorem test_parseRtu_pr7 : seen codeOutRet (exec .parseRtu (staged goodRx)) =
    some (0, [0x01, 0x03, 0x06, 0x00, 0x01, 0x00, 0x02, 0xFF, 0xFF], none) := by decide +kernel
theorem test_parseRtu_pr3_pr15 :
    seen codeOutRet (exec .parseRtu (staged [0xFF, 0xFF])) = some (3, [], none) ∧
    seen codeOutRet (exec .parseRtu (staged [0x01, 0x03, 0x00, 0x00, 0x00])) = some (4, [], none) := by
  decide +kernel
theorem test_parseAscii_pa12 : seen codeOutRet (exec .parseAscii (staged goodRxAscii)) =
    some (0, [0x01, 0x03, 0x06, 0x00, 0x01, 0x00, 0x02, 0xFF, 0xFF], none) := by decide +kernel

/-- PA5 `:\r\n`, PA6 `:00\r\n`, PA7 `:01\r\n`. -/
theorem test_parseAscii_pa5_to_pa7 :
    parseAscii false [0x3A, 0x0D, 0x0A] = .error .framingError ∧
    parseAscii false [0x3A, 0x30, 0x30, 0x0D, 0x0A] = .ok [] ∧
    parseAscii false [0x3A, 0x30, 0x31, 0x0D, 0x0A] = .error .checksumMismatch := by
  decide +kernel

/-! ### Read framer family (section 4) -/

/-- F1, F10's byteCount beyond the data, F7's corrupted byte. -/
theorem test_rdregs_rtu :
    seen framerRow (exec (.rdregs 1000 3) (configured .rtu 1 ⟨true, true, goodRx⟩)) =
      some [0, 1, 11, 8, 11, 9, 6, 6, 3] ∧
    seen framerRow (exec (.rdregs 1000 3) (configured .rtu 1 ⟨true, true,
        [0x01, 0x03, 0x08, 0x00, 0x01, 0x00, 0x02, 0xFF, 0xFF, 0x53, 0x05]⟩)) =
      some [0, 1, 11, 8, 11, 9, 8, 6, 3] ∧
    seen framerRow (exec (.rdregs 1000 3) (configured .rtu 1 ⟨true, true,
        [0x01, 0x03, 0x06, 0x00, 0x01, 0x00, 0x02, 0xFF, 0xFF, 0xBC, 0xC4]⟩)) =
      some [4, 0, 11, 8, 11, 0, 0, 0, 3] := by decide +kernel

/-- F2, F3, FA1, FA4. -/
theorem test_rdregs_ends :
    seen framerRow (exec (.rdregs 1000 3) (configured .rtu 1 ⟨false, true, goodRx⟩)) =
      some [6, 0, 11, 0, 0, 0, 0, 0, 1] ∧
    seen framerRow (exec (.rdregs 1000 3) (configured .rtu 1 ⟨true, false, goodRx⟩)) =
      some [6, 0, 11, 8, 0, 0, 0, 0, 2] ∧
    seen framerRow (exec (.rdregs 1000 3) (configured .ascii 1 ⟨true, true, goodRxAscii⟩)) =
      some [0, 1, 1024, 17, 23, 9, 6, 6, 3] ∧
    seen framerRow (exec (.rdregs 1000 3) (configured .ascii 1 ⟨true, true,
        [0x3A, 0x30, 0x30, 0x0D, 0x0A]⟩)) =
      some [7, 0, 1024, 17, 5, 0, 0, 0, 3] := by decide +kernel

/-- F1's REGSLICE 0 and 2, F9's and F11's REGSLICE 2. -/
theorem test_regslice :
    seen sliceRow (exec (.regslice 0) (framed 6)) = some [1000, 2, 0x00, 0x01, 0] ∧
    seen sliceRow (exec (.regslice 2) (framed 6)) = some [1002, 2, 0xFF, 0xFF, 0] ∧
    seen sliceRow (exec (.regslice 2) (framed 4)) = some [1002, 0, 0x00, 0x00, 0] ∧
    seen sliceRow (exec (.regslice 2) (framed 5)) = some [1002, 1, 0xFF, 0x00, 0] := by decide

theorem test_regslice_out_of_contract :
    seen id (exec (.regslice 3) (framed 6)) = some (illegalCommand (framed 6)) ∧
    seen id (exec (.regslice 0) State.reset) = some (illegalCommand State.reset) := by decide

/-! ### Host access family (section 5.2) -/

/-- H4. -/
theorem test_setcfg : seen (fun t => (t.readReg .cfg, t.readReg .status)) (exec (.setcfg .ascii 17) State.reset) =
    some (some 0x00001101, some 0x00000020) := by decide

/-- H5, and H7 with a capacity of 2. -/
theorem test_push :
    seen (fun t => (t.buf .inb, t.ret)) (exec (.push 0x03) (staged [0x01])) = some ([0x01, 0x03], none) ∧
    seen (fun t => (t.buf .inb, t.status.code, t.ret))
      (exec (.push 0x00) { staged [0x01, 0x03] with par := ⟨2, 1024, false⟩ }) =
      some ([0x01, 0x03], 15, some 0) := by decide

/-- H6. -/
theorem test_clrin : seen (fun t => (t.buf .inb, t.ret)) (exec .clrin (staged [0x01, 0x03])) =
    some ([], none) := by decide

/-- H5, H8. -/
theorem test_ldb :
    seen (fun t => t.ret) (exec (.ldb 0 1) (staged [0x01, 0x03])) = some (some 0x03) ∧
    seen id (exec (.ldb 0 2) (staged [0x01, 0x03])) = some (illegalCommand (staged [0x01, 0x03])) ∧
    seen (fun t => t.ret) (exec (.ldb 4 2) (framed 6)) = some (some 0x06) := by decide

/-- H1, H2, H3. -/
theorem test_rdr :
    seen (fun t => t.ret) (exec (.rdr 0) State.reset) = some (some 0) ∧
    seen (fun t => t.ret) (exec (.rdr 2) State.reset) = some (some 0) ∧
    seen id (exec (.rdr 1) State.reset) = some (illegalCommand State.reset) := by decide

/-! ### The step, reset -/

theorem test_step_from_reset :
    seen (fun t => (t.cfg, t.status.cfgValid, t.port))
      (step (State.reset.withFetchWord 64 0x5001110000000000)) = some (⟨.ascii, 17⟩, true, []) := by decide

theorem test_step_illegal_word :
    seen (fun t => (t.status.code, t.ret, t.mem)) (step ((staged [0x01]).withFetchWord 64 0x4205000000000000)) =
      some (15, some 0, (staged [0x01]).mem) := by decide

theorem test_step_reset :
    seen id (step { framed 6 with port := [.reset] }) = some State.reset := by decide

/-- A reset after the flush of an RDREGS (70_reset_and_hazards.md rule R260): one call has gone out. -/
theorem test_step_cut_by_reset :
    seen (fun t => (t.status, t.mem, t.calls))
      (step { configured .rtu 1 ⟨true, true, goodRx⟩ with port := [.commandCutByReset 0x30000003E8000300#64 1] }) =
      some (⟨0, false, false⟩, ⟨[], [], [], [], []⟩, [.resetInputBuffer]) := by decide +kernel

/-! ### States and operands that meet the hypotheses of the statements -/

theorem meets_EncodeOfDecodeIsTheWord : decode 0x4204000000000300#64 = .ok (.ldb 4 3) := by decide

theorem meets_DecoderAgreesWithMatchMaskTable :
    0x4304000000000000#64 &&& Op.rdr.mask = Op.rdr.matchBits ∧
    Op.rdr.constraint 0x4311000000000000#64 = true ∧ Op.rdr.constraint 0x4312000000000000#64 = false ∧
    Op.ldb.constraint 0x4204000000000000#64 = true ∧ Op.ldb.constraint 0x4205000000000000#64 = false := by
  decide

theorem meets_StepRunsTheDecodedCommand :
    ({ State.reset with port := [.command 0x4100000000000000#64] } : State).port =
      .command 0x4100000000000000#64 :: [] ∧
    decode 0x4100000000000000#64 = .ok .clrin ∧
    decodeTableWord 64 0x4100000000000000 = some .clrin ∧ State.reset.port = [] := by decide

theorem meets_IllegalWordOnlySetsCode15 :
    ∀ o : Op, ¬ (0x4312000000000000#64 &&& o.mask = o.matchBits ∧ o.constraint 0x4312000000000000#64 = true) := by
  intro o; cases o <;> decide

theorem meets_OutOfContractListIsComplete :
    outOfContract (.push 0) { staged [1, 2] with par := ⟨2, 1024, false⟩ } = true ∧
    outOfContract (.push 0) (staged [1]) = false ∧
    outOfContract (.ldb 0 1) (staged [1]) = true ∧ outOfContract (.ldb 0 0) (staged [1]) = false ∧
    outOfContract (.rdr 1) State.reset = true ∧ outOfContract (.rdr 1) (framed 6) = false ∧
    outOfContract (.rdregs 0 0) State.reset = true ∧ outOfContract (.rdregs 0 0) (framed 6) = false ∧
    outOfContract (.regslice 0) State.reset = true ∧ outOfContract (.regslice 3) (framed 6) = true ∧
    outOfContract (.regslice 2) (framed 6) = false ∧ outOfContract .crc16 State.reset = false := by decide

theorem meets_ResetEventGivesTheResetState :
    ({ framed 6 with port := [.reset] } : State).port = .reset :: [] ∧
    ({ framed 6 with port := [.commandCutByReset 0x30000003E8000300#64 2] } : State).port =
      .commandCutByReset 0x30000003E8000300#64 2 :: [] := by decide

theorem meets_LrcNegatesTheByteSum : List.Perm [(0x01 : Byte), 0x02] [0x02, 0x01] := by decide

theorem meets_RtuRequestFrameLayout : (5 : Nat) < 6 + ([] : List Byte).length := by decide

theorem meets_AsciiRequestFrameLayout :
    (body 1 3 1000 3 [0x07])[0]? = some 0x01 ∧ (body 1 3 1000 3 [0x07])[6]? = some 0x07 := by decide

theorem meets_UnhexReadsExactlyHexText :
    digitVal false 0x39 = some 9 ∧ digitVal false 0x46 = some 15 ∧ digitVal true 0x61 = some 10 ∧
    digitVal false 0x61 = none ∧ unhex false [0x30] = none ∧ unhex false [0x30, 0x47] = none ∧
    unhex false [0x30, 0x46] = some [0x0F] ∧ ([0x0F] : List Byte)[0]? = some 0x0F := by decide

theorem meets_ParseRtuAcceptsExactlyGoodFrames :
    parseRtu [0x01, 0x7E, 0x80] = .ok [0x01] ∧ parseRtu [0x01, 0x7E] = .error .frameTooShort ∧
    parseRtu [0x01, 0x7E, 0x81] = .error .checksumMismatch := by decide

theorem meets_ParseCommandsResultAndFrame :
    (parseRtu ((staged goodRx).buf .inb)).toBool = true ∧
    parseRtu ((staged [0xFF]).buf .inb) = .error .frameTooShort ∧
    parseAscii false ((staged [0x3A]).buf .inb) = .error .framingError := by decide +kernel

/-- In the payload, and in the CRC. -/
theorem meets_AnyOneCorruptedByteFailsTheCrc :
    (0x01 : Byte) ≠ 0x02 ∧ parseRtu ([] ++ 0x01 :: [0x7E, 0x80]) = .ok [0x01] ∧
    (0x80 : Byte) ≠ 0x00 ∧ parseRtu ([0x01, 0x7E] ++ 0x80 :: []) = .ok [0x01] := by decide

theorem meets_TrailingZeroBytesStillParse : parseRtu [0x01, 0x7E, 0x80] = .ok [0x01] := by decide

/-- Two states that agree on the parameters and INBUF only. -/
theorem meets_CodecCommandsArePure :
    (framed 6).par = State.reset.par ∧ (framed 6).buf .inb = State.reset.buf .inb ∧
    (seen (fun _ => ()) (exec .parseRtu (framed 6))).isSome = true ∧
    (seen (fun _ => ()) (exec .parseRtu State.reset)).isSome = true ∧ Instr.op .parseRtu = .parseRtu := by
  decide

theorem meets_RdregsContractAndPreparation :
    State.reset.status.cfgValid = false ∧ (configured .rtu 1 ⟨true, true, []⟩).status.cfgValid = true ∧
    seen (fun t => t.status.code) (exec (.rdregs 1000 3) (configured .rtu 1 ⟨true, true, []⟩)) = some 1 := by
  decide +kernel

theorem meets_RdregsTransportCalls :
    (configured .rtu 1 ⟨false, true, []⟩).nextAnswers.flushOk = false ∧
    (configured .ascii 1 ⟨true, false, []⟩).nextAnswers.flushOk = true ∧
    (configured .ascii 1 ⟨true, false, []⟩).nextAnswers.writeOk = false ∧
    (configured .ascii 1 ⟨true, true, []⟩).nextAnswers.writeOk = true ∧
    (configured .ascii 1 ⟨true, true, []⟩).status.cfgValid = true := by decide

/-- RTU with exactly `5 + 2*qty` bytes, and ASCII with a payload of exactly 3 bytes (`:0183027A\r\n`). -/
theorem meets_RdregsSuccessDeliversThePayload :
    5 + 2 * (3 : BitVec 16).toNat ≤ (configured .rtu 1 ⟨true, true, goodRx⟩).nextAnswers.rx.length ∧
    parseRtu (goodRx.take (5 + 2 * (3 : BitVec 16).toNat)) =
      .ok [0x01, 0x03, 0x06, 0x00, 0x01, 0x00, 0x02, 0xFF, 0xFF] ∧
    parseAscii false (([0x3A, 0x30, 0x31, 0x38, 0x33, 0x30, 0x32, 0x37, 0x41, 0x0D, 0x0A] : List Byte).take 1024) =
      .ok [0x01, 0x83, 0x02] ∧ ([0x01, 0x83, 0x02] : List Byte)[2]? = some 0x02 := by decide +kernel

/-- RdregsFrame and RdregsNeverReportsFrameTooShort: a one-byte answer, section 6. -/
theorem meets_RdregsFrame :
    (configured .rtu 1 ⟨true, true, [0x01]⟩).status.cfgValid = true ∧
    seen framerRow (exec (.rdregs 1000 3) (configured .rtu 1 ⟨true, true, [0x01]⟩)) =
      some [2, 0, 11, 8, 1, 0, 0, 0, 3] := by decide +kernel

/-- RdregsOutcomeDependsOnTheResponseOnly and RdregsForgetsEarlierTransactions: two states that differ in
CFG.SLAVE or in an earlier transaction. -/
theorem meets_RdregsTwoStates :
    (configured .rtu 1 ⟨true, true, goodRx⟩).cfg.mode = (configured .rtu 2 ⟨true, true, goodRx⟩).cfg.mode ∧
    (configured .rtu 1 ⟨true, true, goodRx⟩).nextAnswers = (configured .rtu 2 ⟨true, true, goodRx⟩).nextAnswers ∧
    (configured .rtu 1 ⟨true, true, goodRx⟩).cfg = (framed 6).cfg ∧
    ({ framed 6 with answers := [⟨true, true, goodRx⟩] } : State).nextAnswers =
      (configured .rtu 1 ⟨true, true, goodRx⟩).nextAnswers ∧
    (configured .rtu 1 ⟨true, true, goodRx⟩).par = (framed 6).par ∧
    (framed 6).status.cfgValid = true := by decide

/-- The answer of F1 in both encodings. -/
theorem meets_WellFormedAnswerIsDeliveredRegisterByRegister :
    let data : List Byte := [0x00, 0x01, 0x00, 0x02, 0xFF, 0xFF]
    let payload : List Byte := [1, 3, BitVec.ofNat 8 data.length] ++ data
    data.length = 2 * (3 : BitVec 16).toNat ∧ data.length ≤ 255 ∧
    11 + 4 * (3 : BitVec 16).toNat ≤ State.reset.par.asciiRxMax ∧
    (configured .rtu 1 ⟨true, true, goodRx⟩).nextAnswers = ⟨true, true, payload ++ crc16 payload⟩ ∧
    (configured .ascii 1 ⟨true, true, goodRxAscii⟩).nextAnswers =
      ⟨true, true, [0x3A] ++ hex payload ++ hex2 (lrc payload) ++ [0x0D, 0x0A]⟩ := by decide +kernel

/-- One index for each clause: two bytes, one byte, none, beyond RSP_QTY, no response. -/
theorem meets_RegsliceResultAndFrame :
    (framed 5).status.rspValid = true ∧
    (2 : BitVec 32).toNat < (framed 5).rspQty.value.toNat ∧
    2 * (1 : BitVec 32).toNat + 2 ≤ (framed 5).rblen.value.toNat ∧
    (framed 5).rblen.value.toNat = 2 * (2 : BitVec 32).toNat + 1 ∧
    (framed 4).rblen.value.toNat ≤ 2 * (2 : BitVec 32).toNat ∧
    (framed 4).readByte .pay (3 + 2 * 1) = some 0x00 ∧ (framed 4).readByte .pay (4 + 2 * 1) = some 0x02 ∧
    (framed 6).rspQty.value.toNat ≤ (3 : BitVec 32).toNat ∧ State.reset.status.rspValid = false := by decide

/-- The invariant holds in a state with a framed response: also RegsliceIsTheClampedSlice,
RegisterReadsAreZeroExtended and InvariantIsKeptByEveryStep. -/
theorem meets_Inv : (framed 5).Inv ∧ (framed 5).status.rspValid = true ∧
    (2 : BitVec 32).toNat < (framed 5).rspQty.value.toNat := by
  refine ⟨?_, by decide, by decide⟩
  constructor <;> first | decide | simp [framed, State.reset, Latch.blank, Latch.unwritten, Latch.write]

theorem meets_PushResultAndFrame :
    (({ staged [1, 2] with par := ⟨2, 1024, false⟩ } : State).buf .inb).length = 2 ∧
    ((staged [1]).buf .inb).length ≠ (staged [1]).par.inMax := by decide

theorem meets_LdbResultAndFrame :
    ((framed 6).buf .tx)[(7 : BitVec 32).toNat]? = some 0xBB ∧
    ((framed 6).buf .tx).length ≤ (8 : BitVec 32).toNat ∧
    ((framed 6).buf .rx)[(1 : BitVec 32).toNat]? = some 0x03 ∧
    ((framed 6).buf .pay)[(8 : BitVec 32).toNat]? = some 0xFF ∧
    ((staged [7]).buf .inb)[(0 : BitVec 32).toNat]? = some 7 ∧
    ((State.reset.setBuf .out [9]).buf .out)[(0 : BitVec 32).toNat]? = some 9 ∧
    (4 : BitVec 3).toNat ≤ 4 ∧ 4 < (5 : BitVec 3).toNat ∧ 4 < (5 : BitVec 8).toNat := by decide

theorem meets_RdrResultAndFrame :
    Reg.ofNum 17 = some .regb1 ∧ (framed 6).writtenFlag .regb1 = false ∧
    Reg.ofNum 10 = some .rspStart ∧ (framed 6).writtenFlag .rspStart = true ∧ 17 < (18 : BitVec 5).toNat ∧
    (17 : BitVec 5).toNat ≤ 17 ∧ 17 < (18 : BitVec 8).toNat := by decide

theorem meets_RegisterReadsAreZeroExtended :
    (framed 6).readReg .status = some 0x30 ∧ (framed 6).readReg .cfg = some 0x100 ∧
    (framed 6).readReg .paylen = some 9 ∧ (framed 6).readReg .rblen = some 6 := by decide

theorem meets_LoadStagesExactlyItsBytes :
    ([0x01, 0x03] : List Byte).length ≤ State.reset.par.inMax ∧
    ({ State.reset with port := [.command 0x4100000000000000#64, .command 0x4001000000000000#64,
      .command 0x4003000000000000#64, .reset] } : State).port =
      (pseudoLoad [0x01, 0x03]).map (fun i => .command (encode i)) ++ [.reset] := by decide

/-- The whole-machine statements (BuffersChangeOnlyByTheirOwners, RegistersChangeOnlyByTheirWriters,
WrittenFlagsAreSetAndNeverCleared, OnlyRdregsCallsTheTransport, ValidBitsFollowTheirWriters,
NoCommandDependsOnStatusCode, StepsKeepTheParameters) suppose only that a command or a step answers a next
state. -/
theorem meets_wholeMachine :
    exec .clrin State.reset = .next State.reset ∧ step State.reset = .next State.reset ∧
    (∃ t, exec (.rdregs 1000 3) (framed 6) = .next t) := ⟨rfl, rfl, _, rfl⟩

/-- NoPayloadWithoutOk: a parse and a transaction that do not end in OK. -/
theorem meets_NoPayloadWithoutOk :
    seen (fun t => t.status.code) (exec .parseRtu State.reset) = some 3 ∧
    seen (fun t => t.status.code) (exec (.rdregs 1000 3) (configured .rtu 1 ⟨false, true, []⟩)) = some 6 := by
  decide +kernel

end Sys2Proof.Tests
end

section
/-! What an executed command can leave, said once (`exec_cases`), and the rules of 10_state.md that hold
over all commands, derived from it. -/

namespace Sys2Proof.Machine

/-! ### What a command can leave -/

/-- The state a transaction has reached when it ends: after T1, T2 or T3 (42_read_framer.md rule R181). -/
inductive TransactionStage (s : State) (start qty : BitVec 16) : State → Prop
  | flush : TransactionStage s start qty (afterFlush s start qty)
  | write : TransactionStage s start qty (afterWrite s start qty)
  | read : TransactionStage s start qty (afterRead s start qty)

/-- The states a command in contract can leave. It says which cells are written and how the command ends,
and leaves open the bytes and numbers the command computes, on which no rule of this part turns. -/
inductive Completes (s : State) : Instr → State → Prop
  | crc16 (v : BitVec 16) (bytes : List Byte) :
    Completes s .crc16 (({ s with crc := .write v }.setBuf .out bytes).endWith .ok)
  | lrc (v : BitVec 8) (bytes : List Byte) :
    Completes s .lrc (({ s with lrcr := .write v }.setBuf .out bytes).endWith .ok)
  | buildRtu (slave func : BitVec 8) (start qty : BitVec 16) (bytes : List Byte) :
    Completes s (.buildRtu slave func start qty) ((s.setBuf .out bytes).endWith .ok)
  | buildAscii (slave func : BitVec 8) (start qty : BitVec 16) (bytes : List Byte) :
    Completes s (.buildAscii slave func start qty) ((s.setBuf .out bytes).endWith .ok)
  | parseRtu (bytes : List Byte) (c : Code) :
    Completes s .parseRtu ((s.setBuf .out bytes).endWith c)
  | parseAscii (bytes : List Byte) (c : Code) :
    Completes s .parseAscii ((s.setBuf .out bytes).endWith c)
  | rdregsFailed {start qty : BitVec 16} {u : State} (hu : TransactionStage s start qty u) {c : Code}
      (hc : c ≠ .ok) : Completes s (.rdregs start qty) (u.endWith c)
  | rdregsDelivered {start qty : BitVec 16} {u : State} (hu : TransactionStage s start qty u)
      (payload : List Byte) : Completes s (.rdregs start qty) ((u.deliver payload).endWith .ok)
  | regslice (index : BitVec 32) (addr : BitVec 17) (len : BitVec 2) (b0 b1 : Byte) :
    Completes s (.regslice index) ({ s with
      regaddr := .write addr, reglen := .write len, regb0 := .write b0, regb1 := .write b1 }.endWith .ok)
  | push (byte : Byte) : Completes s (.push byte) ((s.append byte).give none)
  | clrin : Completes s .clrin ((s.setBuf .inb []).give none)
  | ldb (space : BitVec 3) (index : BitVec 32) (v : Option RetVal) :
    Completes s (.ldb space index) (s.give v)
  | rdr (n : BitVec 5) (v : Option RetVal) : Completes s (.rdr n) (s.give v)
  | setcfg (mode : Mode) (slave : BitVec 8) :
    Completes s (.setcfg mode slave)
      ({ s with cfg := ⟨mode, slave⟩, status := { s.status with cfgValid := true } }.give none)

theorem endParse_shape (s : State) (r : Except Code (List Byte)) :
    ∃ bytes c, s.endParse r = (s.setBuf .out bytes).endWith c := by
  cases r <;> exact ⟨_, _, rfl⟩

theorem completes_of_execRdregs {s t : State} {start qty : BitVec 16} (hv : s.status.cfgValid = true)
    (h : execRdregs start qty s = .next t) : Completes s (.rdregs start qty) t := by
  obtain ⟨-, rfl⟩ | ⟨-, -, rfl⟩ | ⟨-, -, c, hcl, rfl⟩ | ⟨-, -, p, -, rfl⟩ := execRdregs_cases hv h
  · exact .rdregsFailed .flush (by decide)
  · exact .rdregsFailed .write (by decide)
  · have hc : c ≠ .ok := by rcases classify_error_code hcl with rfl | rfl | rfl | rfl | rfl <;> decide
    exact .rdregsFailed .read hc
  · exact .rdregsDelivered .read p

/-- Off the list of 30_encoding.md rule R121 a command completes; on it, it is the illegal command. -/
theorem exec_cases {i : Instr} {s t : State} (h : exec i s = .next t) :
    (outOfContract i s = true ∧ t = illegalCommand s) ∨
    (outOfContract i s = false ∧ Completes s i t) := by
  cases i with
  | crc16 => cases h; exact .inr ⟨rfl, .crc16 _ _⟩
  | lrc => cases h; exact .inr ⟨rfl, .lrc _ _⟩
  | buildRtu => cases h; exact .inr ⟨rfl, .buildRtu _ _ _ _ _⟩
  | buildAscii => cases h; exact .inr ⟨rfl, .buildAscii _ _ _ _ _⟩
  | parseRtu =>
    cases h
    obtain ⟨bytes, c, e⟩ := endParse_shape s (parseRtu (s.buf .inb))
    exact .inr ⟨rfl, e ▸ .parseRtu bytes c⟩
  | parseAscii =>
    cases h
    obtain ⟨bytes, c, e⟩ := endParse_shape s (parseAscii s.par.hexLowerOk (s.buf .inb))
    exact .inr ⟨rfl, e ▸ .parseAscii bytes c⟩
  | rdregs start qty =>
    cases hv : s.status.cfgValid with
    | true => exact .inr ⟨by simp [outOfContract, hv], completes_of_execRdregs hv h⟩
    | false =>
      simp only [exec, execRdregs, hv, Bool.false_eq_true, if_false, Host.Outcome.next.injEq] at h
      exact .inl ⟨by simp [outOfContract, hv], h.symm⟩
  | regslice index =>
    simp only [exec, execRegslice] at h
    split at h <;> rename_i hg <;> cases h
    · exact .inl ⟨by simpa [outOfContract] using hg, rfl⟩
    · exact .inr ⟨by simpa [outOfContract] using hg, .regslice _ _ _ _ _⟩
  | push byte =>
    simp only [exec, execPush] at h
    split at h <;> rename_i hg <;> cases h
    · exact .inl ⟨by simpa [outOfContract] using hg, rfl⟩
    · exact .inr ⟨by simpa [outOfContract] using hg, .push _⟩
  | clrin => cases h; exact .inr ⟨rfl, .clrin⟩
  | ldb space index =>
    simp only [exec, execLdb, State.readByte] at h
    split at h
    next hs => cases h; exact .inl ⟨by simp [outOfContract, hs], rfl⟩
    next sp hs =>
      split at h <;> rename_i hb <;> cases h
      · exact .inl ⟨by simpa [outOfContract, hs] using hb, rfl⟩
      · obtain ⟨hlt, -⟩ := List.getElem?_eq_some_iff.mp hb
        exact .inr ⟨by simpa [outOfContract, hs] using hlt, .ldb _ _ _⟩
  | rdr n =>
    simp only [exec, execRdr] at h
    split at h
    next hn => cases h; exact .inl ⟨by simp [outOfContract, hn], rfl⟩
    next r hn =>
      have hw := readReg_isSome s r
      split at h <;> rename_i hr <;> cases h
      · exact .inl ⟨by simp [outOfContract, hn, ← hw, hr], rfl⟩
      · exact .inr ⟨by simp [outOfContract, hn, ← hw, hr], .rdr _ _⟩
  | setcfg => cases h; exact .inr ⟨rfl, .setcfg _ _⟩

/-! ### Frames: which buffers and registers a command leaves alone -/

/-- Only the buffers `sps`, the registers `rs` and STATUS differ, as the host reads them. -/
structure Frame (sps : List Space) (rs : List Reg) (s t : State) : Prop where
  bytes : bytesKept sps s t
  regs : regsKept (.status :: rs) s t
  host : hostKept s t

namespace Frame

variable {sps : List Space} {rs : List Reg} {s t u : State}

theorem refl (sps : List Space) (rs : List Reg) (s : State) : Frame sps rs s s :=
  ⟨.refl _ _, .refl _ _, rfl, rfl⟩

theorem trans (h : Frame sps rs s t) (h' : Frame sps rs t u) : Frame sps rs s u :=
  ⟨h.bytes.trans h'.bytes, h.regs.trans h'.regs, h'.host.1.trans h.host.1, h'.host.2.trans h.host.2⟩

/-- Replacing a buffer that is in the frame with its length register; for a command's own lists, the
default arguments find both in the ownership tables. -/
theorem setBuf (h : Frame sps rs s t) {sp : Space} (b : List Byte)
    (hsp : sp ∈ sps := by simp [writesSpaces]) (hr : lengthReg sp ∈ rs := by simp [lengthReg, writesRegs]) :
    Frame sps rs s (t.setBuf sp b) :=
  h.trans ⟨(bytesKept_setBuf t sp b).mono (by simpa using hsp),
    (regsKept_setBuf t sp b).mono (by simpa using .inr hr), rfl, rfl⟩

theorem endWith (h : Frame sps rs s t) (c : Code) : Frame sps rs s (t.endWith c) :=
  h.trans ⟨.refl _ _, (regsKept_endWith t c).mono (by simp), rfl, rfl⟩

theorem give (h : Frame sps rs s t) (v : Option RetVal) : Frame sps rs s (t.give v) :=
  h.trans ⟨.refl _ _, fun r _ => readReg_give t v r, rfl, rfl⟩

theorem call (h : Frame sps rs s t) (c : TransportCall) : Frame sps rs s (t.call c) :=
  h.trans ⟨.refl _ _, fun r _ => readReg_call t c r, rfl, rfl⟩

theorem drawn (h : Frame sps rs s t) : Frame sps rs s t.drawn :=
  h.trans ⟨bytesKept_of_buf fun sp _ => buf_drawn t sp, fun r _ => readReg_drawn t r, by simp [hostKept]⟩

theorem illegal (sps : List Space) (rs : List Reg) (s : State) :
    Frame sps rs s (illegalCommand s) := by
  obtain ⟨-, -, -, hregs, hbytes, -, hhost⟩ := illegalCommand_effect s
  exact ⟨hbytes.mono (by simp), hregs.mono (by simp), hhost⟩

/-- A change of registers alone, for a record update of the state. -/
theorem of_regs (hregs : regsKept (.status :: rs) s t) (hmem : t.mem = s.mem) (hhost : hostKept s t) :
    Frame sps rs s t :=
  ⟨bytesKept_of_buf fun sp _ => congrArg (·.buf sp) hmem, hregs, hhost⟩

end Frame

/-- The buffers and registers of the framer, as the tables give them to RDREGS. -/
abbrev FramerFrame (start qty : BitVec 16) (s t : State) : Prop :=
  Frame (writesSpaces (.rdregs start qty)) (writesRegs (.rdregs start qty)) s t

theorem prepareRead_frame (s : State) (start qty : BitVec 16) :
    FramerFrame start qty s (s.prepareRead start qty) := by
  refine ⟨bytesKept_of_buf fun sp h => ?_, fun r h => ?_, rfl, rfl⟩
  · cases sp <;> first | rfl | simp [writesSpaces] at h
  · cases r <;> first | rfl | simp [writesRegs] at h

theorem deliver_frame {s t : State} {start qty : BitVec 16} (h : FramerFrame start qty s t)
    (p : List Byte) : FramerFrame start qty s (t.deliver p) := by
  refine h.trans ⟨bytesKept_setBuf t .pay p |>.mono (by simp [writesSpaces]), fun r h => ?_, rfl, rfl⟩
  cases r <;> first | rfl | simp [writesRegs] at h

theorem TransactionStage.frame {s u : State} {start qty : BitVec 16}
    (h : TransactionStage s start qty u) : FramerFrame start qty s u := by
  have flushed : FramerFrame start qty s (afterFlush s start qty) :=
    (prepareRead_frame s start qty).drawn.call _
  have written : FramerFrame start qty s (afterWrite s start qty) := (flushed.setBuf _).call _
  cases h with
  | flush => exact flushed
  | write => exact written
  | read => exact (written.call _).setBuf _

/-- A completed command writes no buffer and no register but those the tables give it. -/
theorem Completes.frame {s t : State} {i : Instr} (h : Completes s i t) :
    Frame (writesSpaces i) (writesRegs i) s t := by
  have unchanged := Frame.refl (writesSpaces i) (writesRegs i) s
  cases h with
  | crc16 | lrc =>
    refine Frame.endWith ?_ _
    refine Frame.setBuf ?_ _
    refine .of_regs (fun r h => ?_) rfl ⟨rfl, rfl⟩
    cases r <;> first | rfl | simp [writesRegs] at h
  | buildRtu | buildAscii | parseRtu | parseAscii => exact (unchanged.setBuf _).endWith _
  | rdregsFailed hu => exact hu.frame.endWith _
  | rdregsDelivered hu p => exact (deliver_frame hu.frame p).endWith _
  | regslice =>
    refine Frame.endWith ?_ _
    refine .of_regs (fun r h => ?_) rfl ⟨rfl, rfl⟩
    cases r <;> first | rfl | simp [writesRegs] at h
  | push | clrin => exact (unchanged.setBuf _).give _
  | ldb | rdr => exact unchanged.give _
  | setcfg =>
    refine Frame.give ?_ _
    refine .of_regs (fun r h => ?_) rfl ⟨rfl, rfl⟩
    cases r <;> first | rfl | simp [writesRegs] at h

/-- The frame of every command, in contract or not (10_state.md rules R24, R33). -/
theorem exec_frame {i : Instr} {s t : State} (h : exec i s = .next t) :
    Frame (writesSpaces i) (writesRegs i) s t := by
  obtain ⟨-, rfl⟩ | ⟨-, hc⟩ := exec_cases h
  · exact .illegal _ _ s
  · exact hc.frame

/-- Settles O44: the buffers' part of the frame of every command. -/
theorem buffersChangeOnlyByTheirOwners : Obligations.BuffersChangeOnlyByTheirOwners :=
  fun _ _ _ h => (exec_frame h).bytes

/-- Settles O45: the registers' part of the frame of every command. -/
theorem registersChangeOnlyByTheirWriters : Obligations.RegistersChangeOnlyByTheirWriters :=
  fun _ _ _ h => ⟨(exec_frame h).regs, (exec_frame h).host⟩

/-! ### Written flags -/

/-- A register that reads as before has its written flag as before (10_state.md rule R26). -/
theorem writtenFlag_of_readReg {s t : State} {r : Reg} (h : t.readReg r = s.readReg r) :
    t.writtenFlag r = s.writtenFlag r := by
  rw [← readReg_isSome, ← readReg_isSome, h]

theorem writtenFlag_illegalCommand (s : State) (r : Reg) :
    (illegalCommand s).writtenFlag r = s.writtenFlag r := by cases r <;> rfl

/-- T0 writes the framer's registers and no later step of the transaction writes their flags back. -/
theorem TransactionStage.flags {s u : State} {start qty : BitVec 16} (h : TransactionStage s start qty u) :
    u.rdlen.written = true ∧ u.rspStart.written = true ∧ u.rspQty.written = true ∧
    u.bytecnt.written = true ∧ u.rblen.written = true := by
  cases h <;> simp [afterRead, afterWrite, afterFlush]

/-- Every register a completed command writes has its flag set. -/
theorem Completes.writtenFlag {s t : State} {i : Instr} (h : Completes s i t) :
    ∀ r ∈ writesRegs i, t.writtenFlag r = true := by
  cases h with
  | crc16 | lrc | buildRtu | buildAscii | parseRtu | parseAscii | regslice | push | clrin | ldb | rdr
  | setcfg => simp [writesRegs, State.writtenFlag]
  | rdregsFailed hu | rdregsDelivered hu =>
    obtain ⟨hlen, hstart, hqty, hcnt, hrb⟩ := hu.flags
    simp [writesRegs, State.writtenFlag, *]

/-- A register the table does not give the command keeps its flag: STATUS has it always, the others read
as before. -/
theorem writtenFlag_exec_of_notMem {i : Instr} {s t : State} (h : exec i s = .next t) {r : Reg}
    (hr : r ∉ writesRegs i) : t.writtenFlag r = s.writtenFlag r := by
  by_cases hs : r = .status
  · subst hs; rfl
  · exact writtenFlag_of_readReg ((exec_frame h).regs r (by simp [hs, hr]))

/-- Settles O46: a flag outside the command's registers is as before, one among them is set by completion
and kept by the illegal command. -/
theorem writtenFlagsAreSetAndNeverCleared : Obligations.WrittenFlagsAreSetAndNeverCleared := by
  refine ⟨fun r => by cases r <;> decide, fun i s t h => ⟨fun r hs => ?_, fun hin r hr => ?_, fun r ht => ?_⟩⟩
  · by_cases hr : r ∈ writesRegs i
    · obtain ⟨-, rfl⟩ | ⟨-, hc⟩ := exec_cases h
      · rwa [writtenFlag_illegalCommand]
      · exact hc.writtenFlag r hr
    · rwa [writtenFlag_exec_of_notMem h hr]
  · obtain ⟨hout, -⟩ | ⟨-, hc⟩ := exec_cases h
    · simp [hin] at hout
    · exact hc.writtenFlag r hr
  · by_cases hr : r ∈ writesRegs i
    · exact .inr hr
    · exact .inl (by rwa [← writtenFlag_exec_of_notMem h hr])

/-! ### RSP_VALID and CFG_VALID -/

theorem Code.num_ne_zero {c : Code} (h : c ≠ .ok) : c.num ≠ 0#4 := by
  cases c <;> first | decide | exact absurd rfl h

/-- T0 clears RSP_VALID, and T1 to T3 leave STATUS alone. -/
theorem TransactionStage.status {s u : State} {start qty : BitVec 16} (h : TransactionStage s start qty u) :
    u.status = ⟨s.status.code, false, s.status.cfgValid⟩ := by
  cases h <;> simp [afterRead, afterWrite, afterFlush]

/-- RSP_VALID after a completed command: whether the code is 0 for RDREGS, else as before. -/
theorem Completes.rspValid {s t : State} {i : Instr} (h : Completes s i t) :
    t.status.rspValid = if i.op = .rdregs then t.status.code == 0 else s.status.rspValid := by
  cases h with
  | crc16 | lrc | buildRtu | buildAscii | parseRtu | parseAscii | regslice | push | clrin | ldb | rdr
  | setcfg => simp [Instr.op]
  | rdregsFailed hu hc => simp [Instr.op, hu.status, Code.num_ne_zero hc]
  | rdregsDelivered => simp [Instr.op, Code.num]

/-- CFG_VALID after a completed command: set by SETCFG, else as before. -/
theorem Completes.cfgValid {s t : State} {i : Instr} (h : Completes s i t) :
    t.status.cfgValid = (s.status.cfgValid || i.op == .setcfg) := by
  cases h with
  | crc16 | lrc | buildRtu | buildAscii | parseRtu | parseAscii | regslice | push | clrin | ldb | rdr
  | setcfg => simp [Instr.op]
  | rdregsFailed hu | rdregsDelivered hu => simp [Instr.op, hu.status]

theorem outOfContract_of_op_rdregs {i : Instr} (h : i.op = .rdregs) (s : State) :
    outOfContract i s = !s.status.cfgValid := by
  cases i <;> first | rfl | cases h

theorem op_ne_setcfg_of_outOfContract {i : Instr} {s : State} (h : outOfContract i s = true) :
    i.op ≠ .setcfg := by
  intro hi
  cases i <;> cases hi
  exact Bool.false_ne_true h

/-- Settles O48: the illegal command keeps both bits, and it is what RDREGS is exactly when CFG_VALID is 0. -/
theorem validBitsFollowTheirWriters : Obligations.ValidBitsFollowTheirWriters := by
  intro i s t h
  obtain ⟨hout, rfl⟩ | ⟨hin, hc⟩ := exec_cases h
  · have hrd : ¬ (i.op = .rdregs ∧ s.status.cfgValid = true) := fun ⟨hi, hv⟩ => by
      simp [outOfContract_of_op_rdregs hi, hv] at hout
    have hset := op_ne_setcfg_of_outOfContract hout
    exact ⟨by rw [if_neg hrd]; rfl, by simp [hset]⟩
  · have hrd : i.op = .rdregs ↔ i.op = .rdregs ∧ s.status.cfgValid = true := by
      refine ⟨fun hi => ⟨hi, ?_⟩, And.left⟩
      simpa [outOfContract_of_op_rdregs hi] using hin
    exact ⟨by simpa only [← hrd] using hc.rspValid, hc.cfgValid⟩

/-! ### Independence of STATUS.CODE

A command that ends with an outcome overwrites STATUS.CODE and reads it nowhere, so it leaves the same
state for every code before it. A command that only moves data passes the code through. -/

/-- The state with another STATUS.CODE. -/
def State.withCode (s : State) (c : BitVec 4) : State :=
  { s with status := { s.status with code := c } }

section
variable (s : State) (c : BitVec 4)

@[simp] theorem withCode_par : (s.withCode c).par = s.par := rfl
@[simp] theorem withCode_cfg : (s.withCode c).cfg = s.cfg := rfl
@[simp] theorem withCode_cfgValid : (s.withCode c).status.cfgValid = s.status.cfgValid := rfl
@[simp] theorem withCode_buf (sp : Space) : (s.withCode c).buf sp = s.buf sp := rfl
@[simp] theorem withCode_readByte (sp : Space) (k : Nat) :
    (s.withCode c).readByte sp k = s.readByte sp k := rfl
@[simp] theorem withCode_nextAnswers : (s.withCode c).nextAnswers = s.nextAnswers := rfl

theorem withCode_readReg {r : Reg} (h : r ≠ .status) : (s.withCode c).readReg r = s.readReg r := by
  cases r <;> first | rfl | exact absurd rfl h

@[simp] theorem withCode_endWith (k : Code) : (s.withCode c).endWith k = s.endWith k := rfl
@[simp] theorem withCode_illegalCommand : illegalCommand (s.withCode c) = illegalCommand s := rfl
@[simp] theorem withCode_setBuf (sp : Space) (b : List Byte) :
    (s.withCode c).setBuf sp b = (s.setBuf sp b).withCode c := rfl
@[simp] theorem withCode_call (k : TransportCall) : (s.withCode c).call k = (s.call k).withCode c := rfl
@[simp] theorem withCode_prepareRead (start qty : BitVec 16) :
    (s.withCode c).prepareRead start qty = (s.prepareRead start qty).withCode c := rfl
@[simp] theorem withCode_deliver (p : List Byte) :
    (s.withCode c).deliver p = (s.deliver p).withCode c := rfl

@[simp] theorem withCode_drawn : (s.withCode c).drawn = s.drawn.withCode c := by
  simp only [State.drawn, State.withCode]
  cases s.answers <;> rfl

@[simp] theorem withCode_endParse (r : Except Code (List Byte)) :
    (s.withCode c).endParse r = s.endParse r := by cases r <;> rfl

@[simp] theorem withCode_classified (qty : BitVec 16) :
    (s.withCode c).classified qty = s.classified qty := by simp [State.classified]

@[simp] theorem withCode_readStep (a : Answers) (qty : BitVec 16) :
    (s.withCode c).readStep a qty = s.readStep a qty := by simp [State.readStep]

@[simp] theorem withCode_writeStep (a : Answers) (start qty : BitVec 16) :
    (s.withCode c).writeStep a start qty = s.writeStep a start qty := by simp [State.writeStep]

@[simp] theorem withCode_flushStep (a : Answers) (start qty : BitVec 16) :
    (s.withCode c).flushStep a start qty = s.flushStep a start qty := by simp [State.flushStep]

/-- A command that is to leave an outcome leaves the same state whatever the code was. -/
theorem exec_withCode_of_outcome {i : Instr} (h : movesDataOnly i = false) :
    exec i (s.withCode c) = exec i s := by
  cases i with
  | crc16 | lrc | buildRtu | buildAscii | regslice => rfl
  | parseRtu | parseAscii => exact congrArg Host.Outcome.next (withCode_endParse s c _)
  | rdregs start qty => simp [exec, execRdregs]
  | setcfg | push | clrin | ldb | rdr => cases h

end

/-- Only register number 0 names STATUS (10_state.md rule R24). -/
theorem ofNum_eq_status {n : BitVec 5} (h : Reg.ofNum n = some .status) : n = 0 := by
  revert n; decide

/-- The code is overwritten or passed through, and only RDR 0 returns another value for another code. -/
theorem exec_withCode {i : Instr} {s t : State} (c : BitVec 4) (h : exec i s = .next t) :
    exec i (s.withCode c) = .next t ∨
    (t.status.code = s.status.code ∧
      ∃ v, exec i (s.withCode c) = .next ((t.withCode c).give v) ∧ (i ≠ .rdr 0 → v = t.ret)) := by
  cases i with
  | crc16 | lrc | buildRtu | buildAscii | parseRtu | parseAscii | rdregs | regslice =>
    exact .inl ((exec_withCode_of_outcome s c rfl).trans h)
  | setcfg | clrin => cases h; exact .inr ⟨rfl, _, rfl, fun _ => rfl⟩
  | push byte =>
    simp only [exec, execPush] at h
    split at h <;> rename_i hg <;> cases h
    · exact .inl (if_pos hg)
    · exact .inr ⟨rfl, _, if_neg hg, fun _ => rfl⟩
  | ldb space index =>
    simp only [exec, execLdb, withCode_readByte] at h ⊢
    split at h
    next => cases h; exact .inl rfl
    next sp hs =>
      split at h <;> cases h
      · exact .inl rfl
      · exact .inr ⟨rfl, _, rfl, fun _ => rfl⟩
  | rdr n =>
    simp only [exec, execRdr] at h ⊢
    split at h
    next => cases h; exact .inl rfl
    next r hn =>
      by_cases hr : r = .status
      · subst hr
        cases h
        exact .inr ⟨rfl, _, rfl, fun hne => absurd (congrArg Instr.rdr (ofNum_eq_status hn)) hne⟩
      · simp only [withCode_readReg s c hr]
        split at h <;> cases h
        · exact .inl rfl
        · exact .inr ⟨rfl, _, rfl, fun _ => rfl⟩

/-- Settles O49: the second run ends in the same state, or in the same one with the code passed through. -/
theorem noCommandDependsOnStatusCode : Obligations.NoCommandDependsOnStatusCode := by
  intro i s t c h
  obtain hu | ⟨hcode, v, hu, hv⟩ := exec_withCode c h
  · exact ⟨t, hu, .refl _ _, .refl _ _, ⟨rfl, rfl⟩, ⟨rfl, rfl, rfl⟩, ⟨rfl, rfl⟩, .inl rfl, fun _ => rfl⟩
  · have hregs : regsKept [.status] t ((t.withCode c).give v) := fun r hr =>
      (readReg_give _ v r).trans (withCode_readReg t c (by simpa using hr))
    exact ⟨_, hu, .refl _ _, hregs, ⟨rfl, rfl⟩, ⟨rfl, rfl, rfl⟩, ⟨rfl, rfl⟩, .inr ⟨hcode, rfl⟩,
      fun hi => (hv hi).symm⟩

end Sys2Proof.Machine
end

section
/-! Which transport calls a command makes (20_memory.md rule R71), from the stages of a transaction and the
states a command can leave. -/

namespace Sys2Proof.Machine

/-- The calls of one transaction: flush, then write, then read, cut after any of them (20_memory.md
rule R71). -/
def TransactionCalls (new : List TransportCall) : Prop :=
  new = [.resetInputBuffer] ∨ (∃ f, new = [.resetInputBuffer, .write f]) ∨
    ∃ f n, new = [.resetInputBuffer, .write f, .read n]

/-- Each of T1, T2 and T3 adds its own call behind those of the stages before it. -/
theorem TransactionStage.calls {s u : State} {start qty : BitVec 16} (h : TransactionStage s start qty u) :
    ∃ new, u.calls = s.calls ++ new ∧ TransactionCalls new := by
  cases h with
  | flush => exact ⟨_, by simp [afterFlush], .inl rfl⟩
  | write =>
    refine ⟨_, ?_, .inr (.inl ⟨requestFrame s.cfg start qty, rfl⟩)⟩
    simp [afterWrite, afterFlush]
  | read =>
    refine ⟨_, ?_, .inr (.inr ⟨requestFrame s.cfg start qty, readLength s.par s.cfg.mode qty, rfl⟩)⟩
    simp [afterRead, afterWrite, afterFlush]

/-- A completed command leaves the transport alone, or it is an RDREGS and makes a transaction's calls. -/
theorem Completes.transport {s t : State} {i : Instr} (h : Completes s i t) :
    transportKept s t ∨
    (i.op = .rdregs ∧ ∃ new, t.calls = s.calls ++ new ∧ TransactionCalls new) := by
  cases h with
  | crc16 | lrc | buildRtu | buildAscii | parseRtu | parseAscii | regslice | push | clrin | ldb | rdr
  | setcfg => exact .inl ⟨rfl, rfl, rfl⟩
  | rdregsFailed hu | rdregsDelivered hu => exact .inr ⟨rfl, hu.calls⟩

/-- The transport's part of what every command leaves, in contract or not. -/
theorem exec_transport {i : Instr} {s t : State} (h : exec i s = .next t) :
    transportKept s t ∨
    (i.op = .rdregs ∧ ∃ new, t.calls = s.calls ++ new ∧ TransactionCalls new) := by
  obtain ⟨-, rfl⟩ | ⟨-, hc⟩ := exec_cases h
  · exact .inl ⟨rfl, rfl, rfl⟩
  · exact hc.transport

/-- Settles O47: a command that leaves the transport alone adds no call, and the others are RDREGS. -/
theorem onlyRdregsCallsTheTransport : Obligations.OnlyRdregsCallsTheTransport := by
  intro i s t h
  obtain hkept | ⟨hi, new, hnew, hcalls⟩ := exec_transport h
  · exact ⟨[], by simp [hkept.1], fun _ => ⟨rfl, hkept⟩, .inl rfl⟩
  · exact ⟨new, hnew, fun hne => absurd hi hne, .inr hcalls⟩

end Sys2Proof.Machine
end

section
/-! The decoder against the match and mask table (30_encoding.md rule R114): both sides are read off the
fields of the word, the mask as "each field under its own mask". -/

namespace Sys2Proof

/-! ### What the decoder accepts -/

@[simp] theorem operands_op (o : Op) (f : Fields) : (operands o f).op = o := by cases o <;> rfl

/-- The three checks of the decoder: the opcode, the must-be-zero bits, the value constraint. -/
theorem decode_eq_ok_iff {w : Word} {i : Instr} : decode w = .ok i ↔
    (fieldsOf w).op = i.op.code ∧ (fieldsOf w).restIsZero i.op = true ∧
    operands i.op (fieldsOf w) = i ∧ WellFormed i = true := by
  constructor
  · intro h
    simp only [decode] at h
    split at h
    · cases h
    next o ho =>
      split at h
      next hz =>
        split at h <;> cases h
        next hwf => simpa [code_of_ofCode ho] using ⟨hz, hwf⟩
      · cases h
  · rintro ⟨hop, hz, hi, hwf⟩
    simp [decode, hop, hz, hi, hwf]

/-- Some command of row `o` is accepted when the three checks of that row pass. -/
theorem exists_decode_of_op_iff {w : Word} {o : Op} : (∃ i, decode w = .ok i ∧ i.op = o) ↔
    (fieldsOf w).op = o.code ∧ (fieldsOf w).restIsZero o = true ∧
    WellFormed (operands o (fieldsOf w)) = true := by
  constructor
  · rintro ⟨i, hi, rfl⟩
    obtain ⟨hop, hz, he, hwf⟩ := decode_eq_ok_iff.mp hi
    exact ⟨hop, hz, he.symm ▸ hwf⟩
  · rintro ⟨hop, hz, hwf⟩
    exact ⟨operands o (fieldsOf w), decode_eq_ok_iff.mpr (by simp [hop, hz, hwf]), operands_op ..⟩

/-! ### Masks, field by field -/

theorem fieldsOf_inj {v w : Word} : fieldsOf v = fieldsOf w ↔ v = w :=
  ⟨fun h => by rw [← word_fieldsOf v, h, word_fieldsOf], congrArg _⟩

theorem fieldsOf_and (v w : Word) : fieldsOf (v &&& w) =
    ⟨(fieldsOf v).op &&& (fieldsOf w).op, (fieldsOf v).a &&& (fieldsOf w).a,
      (fieldsOf v).b &&& (fieldsOf w).b, (fieldsOf v).c &&& (fieldsOf w).c,
      (fieldsOf v).d &&& (fieldsOf w).d, (fieldsOf v).z &&& (fieldsOf w).z⟩ := by
  simp [fieldsOf, BitVec.extractLsb'_and]

/-- The match value of a row is its opcode over zeros. -/
theorem fieldsOf_matchBits (o : Op) : fieldsOf o.matchBits = ⟨o.code, 0, 0, 0, 0, 0⟩ := by
  cases o <;> rfl

/-- The bits of field `a` that each row's mask pins (30_encoding.md rule R114). -/
def Op.maskA : Op → BitVec 8
  | .buildRtu | .buildAscii | .push => 0x00
  | .ldb => 0xF8
  | .rdr => 0xE0
  | .setcfg => 0xFE
  | _ => 0xFF

/-- The same for field `b`. -/
def Op.maskB : Op → BitVec 8
  | .buildRtu | .buildAscii | .setcfg => 0x00
  | _ => 0xFF

/-- The same for the fields `c` and `d`, which a row pins or leaves free together. -/
def Op.maskCD : Op → BitVec 16
  | .buildRtu | .buildAscii | .rdregs | .regslice | .ldb => 0x0000
  | _ => 0xFFFF

theorem fieldsOf_mask (o : Op) : fieldsOf o.mask = ⟨0xFF, o.maskA, o.maskB, o.maskCD, o.maskCD, 0xFF⟩ := by
  cases o <;> rfl

/-- The bits of `a` above LDB's space number, above RDR's register number and above SETCFG's mode. -/
theorem and_eq_zero_iff_extract_high (a : BitVec 8) :
    (a &&& 0xF8 = 0 ↔ a.extractLsb' 3 5 = 0) ∧ (a &&& 0xE0 = 0 ↔ a.extractLsb' 5 3 = 0) ∧
    (a &&& 0xFE = 0 ↔ a.extractLsb' 1 7 = 0) := by
  revert a; decide

theorem and_ones8 (x : BitVec 8) : x &&& 0xFF = x := BitVec.and_allOnes
theorem and_ones16 (x : BitVec 16) : x &&& 0xFFFF = x := BitVec.and_allOnes

/-- The must-be-zero check of a row's format pins exactly the bits of the row's mask. -/
theorem restIsZero_iff_masked (o : Op) (f : Fields) : f.restIsZero o = true ↔
    f.a &&& o.maskA = 0 ∧ f.b &&& o.maskB = 0 ∧ f.c &&& o.maskCD = 0 ∧ f.d &&& o.maskCD = 0 ∧ f.z = 0 := by
  obtain ⟨hldb, hrdr, hset⟩ := and_eq_zero_iff_extract_high f.a
  cases o <;>
    simp only [Fields.restIsZero, Op.format, Op.maskA, Op.maskB, Op.maskCD, and_ones8, and_ones16,
      hldb, hrdr, hset] <;>
    simp [and_assoc, and_comm, and_left_comm]

/-- A word matches a row under its mask iff it passes the decoder's first two checks for that row. -/
theorem and_mask_eq_matchBits_iff (w : Word) (o : Op) : w &&& o.mask = o.matchBits ↔
    (fieldsOf w).op = o.code ∧ (fieldsOf w).restIsZero o = true := by
  rw [← fieldsOf_inj, fieldsOf_and, fieldsOf_mask, fieldsOf_matchBits, restIsZero_iff_masked]
  simp only [Fields.mk.injEq, and_ones8]

/-! ### The value constraint -/

theorem space_le_iff (a : BitVec 8) (h : a.extractLsb' 3 5 = 0) :
    a.extractLsb' 0 3 ≤ 4#3 ↔ a.toNat ≤ 4 := by
  revert a; decide

theorem register_le_iff (a : BitVec 8) (h : a.extractLsb' 5 3 = 0) :
    a.extractLsb' 0 5 ≤ 17#5 ↔ a.toNat ≤ 17 := by
  revert a; decide

/-- With the bits above it zero, an operand is within its bound iff the whole field `a` is. -/
theorem wellFormed_operands_iff {w : Word} {o : Op} (hz : (fieldsOf w).restIsZero o = true) :
    WellFormed (operands o (fieldsOf w)) = true ↔ o.constraint w = true := by
  obtain ⟨ha, -⟩ := (restIsZero_iff_masked o _).mp hz
  obtain ⟨hldb, hrdr, -⟩ := and_eq_zero_iff_extract_high (fieldsOf w).a
  cases o with
  | ldb =>
    simp only [WellFormed, operands, Op.constraint, decide_eq_true_eq]
    exact space_le_iff _ (hldb.mp ha)
  | rdr =>
    simp only [WellFormed, operands, Op.constraint, decide_eq_true_eq]
    exact register_le_iff _ (hrdr.mp ha)
  | crc16 | lrc | buildRtu | buildAscii | parseRtu | parseAscii | rdregs | regslice | push | clrin
  | setcfg => rfl

/-- Settles O3: match and mask are the opcode and must-be-zero checks, the constraint is well-formedness. -/
theorem decoderAgreesWithMatchMaskTable : Obligations.DecoderAgreesWithMatchMaskTable := by
  intro w o
  rw [exists_decode_of_op_iff, and_mask_eq_matchBits_iff, ← and_assoc]
  exact and_congr_right fun ⟨_, hz⟩ => wellFormed_operands_iff hz

end Sys2Proof
end

section
/-! Which words and which commands act as the illegal command (30_encoding.md rules R120, R121), and what
the others leave in STATUS.CODE. -/

namespace Sys2Proof.Machine

/-! ### Words on the command port -/

theorem step_of_decode_ok {s : State} {w : Word} {rest : List HostInput} {i : Instr}
    (hp : s.port = .command w :: rest) (hd : decode w = .ok i) :
    step s = exec i { s with port := rest } := by
  simp only [step, hp, runWord, hd]

theorem step_of_decode_error {s : State} {w : Word} {rest : List HostInput} {r : Reject}
    (hp : s.port = .command w :: rest) (hd : decode w = .error r) :
    step s = .next (illegalCommand { s with port := rest }) := by
  simp only [step, hp, runWord, hd]

/-- Settles O6: a word the decoder accepted would be claimed by the row of its command. -/
theorem illegalWordOnlySetsCode15 : Obligations.IllegalWordOnlySetsCode15 := by
  intro s w rest hp hnone
  cases hd : decode w with
  | ok i => exact absurd ((decoderAgreesWithMatchMaskTable w i.op).mp ⟨i, hd, rfl⟩) (hnone i.op)
  | error r => exact ⟨_, step_of_decode_error hp hd, illegalCommand_effect _⟩

/-! ### The code a command leaves -/

/-- Every command completes in every state (30_encoding.md rule R122). -/
theorem exec_total (i : Instr) (s : State) : ∃ t, exec i s = .next t := by
  cases i with
  | crc16 | lrc | buildRtu | buildAscii | parseRtu | parseAscii | clrin | setcfg => exact ⟨_, rfl⟩
  | rdregs => simp only [exec, execRdregs]; split <;> exact ⟨_, rfl⟩
  | regslice => simp only [exec, execRegslice]; split <;> exact ⟨_, rfl⟩
  | push => simp only [exec, execPush]; split <;> exact ⟨_, rfl⟩
  | ldb =>
    simp only [exec, execLdb]
    split
    · exact ⟨_, rfl⟩
    · split <;> exact ⟨_, rfl⟩
  | rdr =>
    simp only [exec, execRdr]
    split
    · exact ⟨_, rfl⟩
    · split <;> exact ⟨_, rfl⟩

theorem Code.num_ne_fifteen {c : Code} (h : c ≠ .illegalCommand) : c.num ≠ 15#4 := by
  cases c <;> first | decide | exact absurd rfl h

/-- A parse command leaves OK or the parser's outcome. -/
theorem endParse_code_ne_fifteen {s : State} {r : Except Code (List Byte)}
    (h : r ≠ .error .illegalCommand) : (s.endParse r).status.code ≠ 15 := by
  cases r with
  | ok payload => exact Code.num_ne_fifteen (c := .ok) (by decide)
  | error c => exact Code.num_ne_fifteen fun hc => h (congrArg _ hc)

theorem parseRtu_ne_illegal (raw : List Byte) : parseRtu raw ≠ .error .illegalCommand := fun h => by
  rcases parseRtu_error h with h | h <;> cases h

theorem parseAscii_ne_illegal (lowerOk : Bool) (raw : List Byte) :
    parseAscii lowerOk raw ≠ .error .illegalCommand := fun h => by
  rcases parseAscii_error h with h | h <;> cases h

theorem execRdregs_code_ne_fifteen {s t : State} {start qty : BitVec 16} (hv : s.status.cfgValid = true)
    (h : execRdregs start qty s = .next t) : t.status.code ≠ 15 := by
  obtain ⟨-, rfl⟩ | ⟨-, -, rfl⟩ | ⟨-, -, c, hcl, rfl⟩ | ⟨-, -, p, -, rfl⟩ := execRdregs_cases hv h
  · exact Code.num_ne_fifteen (c := .transportUnavailable) (by decide)
  · exact Code.num_ne_fifteen (c := .transportUnavailable) (by decide)
  · refine Code.num_ne_fifteen (c := c) ?_
    rcases classify_error_code hcl with rfl | rfl | rfl | rfl | rfl <;> decide
  · exact Code.num_ne_fifteen (c := .ok) (by decide)

/-- A completed command that only moves data leaves STATUS.CODE alone (10_state.md rule R22). -/
theorem Completes.code_of_movesDataOnly {s t : State} {i : Instr} (h : Completes s i t)
    (hm : movesDataOnly i = true) : t.status.code = s.status.code := by
  cases h with
  | push | clrin | ldb | rdr | setcfg => rfl
  | crc16 | lrc | buildRtu | buildAscii | parseRtu | parseAscii | rdregsFailed | rdregsDelivered
  | regslice => cases hm

/-- In contract, a command that leaves an outcome leaves another one than IllegalCommand. -/
theorem exec_code_ne_fifteen {i : Instr} {s t : State} (hm : movesDataOnly i = false)
    (hin : outOfContract i s = false) (h : exec i s = .next t) : t.status.code ≠ 15 := by
  cases i with
  | crc16 | lrc | buildRtu | buildAscii => cases h; exact Code.num_ne_fifteen (c := .ok) (by decide)
  | parseRtu => cases h; exact endParse_code_ne_fifteen (parseRtu_ne_illegal _)
  | parseAscii => cases h; exact endParse_code_ne_fifteen (parseAscii_ne_illegal _ _)
  | rdregs => exact execRdregs_code_ne_fifteen (by simpa [outOfContract] using hin) h
  | regslice =>
    obtain ⟨hout, -⟩ | ⟨-, hc⟩ := exec_cases h
    · simp [hin] at hout
    · cases hc; exact Code.num_ne_fifteen (c := .ok) (by decide)
  | push | clrin | ldb | rdr | setcfg => cases hm

/-- Settles O7: on the list a command is the illegal command, off it a completed one. -/
theorem outOfContractListIsComplete : Obligations.OutOfContractListIsComplete := by
  intro i s _
  obtain ⟨t, ht⟩ := exec_total i s
  obtain ⟨hout, rfl⟩ | ⟨hin, hc⟩ := exec_cases ht
  · exact ⟨fun _ => ⟨_, ht, illegalCommand_effect s⟩, fun hin => by simp [hout] at hin⟩
  · refine ⟨fun hout => by simp [hin] at hout, fun _ => ⟨t, ht, ?_⟩⟩
    split
    next hm => exact hc.code_of_movesDataOnly hm
    next hm => exact exec_code_ne_fifteen (by simpa using hm) hin ht

end Sys2Proof.Machine
end

section
/-! Hex text and the request frames, position by position (30_encoding.md rules R92, R93, R95, R100, R101). -/

namespace Sys2Proof.Machine

/-! ### Hex text -/

/-- Character `2k` of hex text is the high digit of byte `k`, character `2k + 1` the low one. -/
theorem hex_getElem? {s : List Byte} {k : Nat} {x : Byte} (h : s[k]? = some x) :
    (hex s)[2 * k]? = some (digit (x.extractLsb' 4 4)) ∧
    (hex s)[2 * k + 1]? = some (digit (x.extractLsb' 0 4)) := by
  induction s generalizing k with
  | nil => cases h
  | cons b s ih =>
    cases k with
    | zero => cases h; exact ⟨rfl, rfl⟩
    | succ k => exact ih h

/-- The nibbles of a byte are read back, high nibble first. -/
theorem unhex_hex (lowerOk : Bool) (s : List Byte) : unhex lowerOk (hex s) = some s := by
  induction s with
  | nil => rfl
  | cons b s ih =>
    refine unhex_cons.mpr ⟨_, _, s, digitVal_digit .., digitVal_digit .., ih, ?_⟩
    rw [BitVec.extractLsb'_append_extractLsb']

/-- `unhex` refuses exactly a text of odd length or with a character that is no digit. -/
theorem unhex_eq_none_iff (lowerOk : Bool) : ∀ t : List Byte, unhex lowerOk t = none ↔
    t.length % 2 = 1 ∨ ∃ c ∈ t, digitVal lowerOk c = none
  | [] => by simp [unhex]
  | [_] => by simp [unhex]
  | hi :: lo :: t => by
    have ih := unhex_eq_none_iff lowerOk t
    have hlen : (hi :: lo :: t).length % 2 = t.length % 2 := Nat.add_mod_right t.length 2
    rw [hlen, List.exists_mem_cons_iff, List.exists_mem_cons_iff]
    cases hh : digitVal lowerOk hi with
    | none => simp [unhex, hh]
    | some h =>
      cases hl : digitVal lowerOk lo with
      | none => simp [unhex, hh, hl]
      | some l => cases ht : unhex lowerOk t <;> simp [unhex, hh, hl, ht, ← ih]

/-- A byte joined from two nibbles, as a number. -/
theorem toNat_append_nibbles (h l : BitVec 4) : (h ++ l).toNat = 16 * h.toNat + l.toNat := by
  rw [BitVec.toNat_append, ← Nat.shiftLeft_add_eq_or_of_lt l.isLt, Nat.shiftLeft_eq, Nat.mul_comm]

/-- Byte `k` of decoded text comes from the characters `2k` and `2k + 1`. -/
theorem unhex_getElem? {lowerOk : Bool} : ∀ {t s : List Byte} {k : Nat} {b : Byte},
    unhex lowerOk t = some s → s[k]? = some b → ∃ hi lo h l, t[2 * k]? = some hi ∧
      t[2 * k + 1]? = some lo ∧ digitVal lowerOk hi = some h ∧ digitVal lowerOk lo = some l ∧
      b.toNat = 16 * h.toNat + l.toNat
  | [], _, _, _, ht, hk => by cases ht; cases hk
  | [_], _, _, _, ht, _ => by cases ht
  | hi :: lo :: t, _, k, _, ht, hk => by
    obtain ⟨h, l, r, hh, hl, hr, rfl⟩ := unhex_cons.mp ht
    cases k with
    | zero => cases hk; exact ⟨hi, lo, h, l, rfl, rfl, hh, hl, toNat_append_nibbles h l⟩
    | succ k =>
      have ih := unhex_getElem? (k := k) hr hk
      exact ih

/-- The digits of each of the three ranges and their values (30_encoding.md rule R101). -/
theorem digitVal_eq_some_iff (lowerOk : Bool) (c : Byte) (v : BitVec 4) : digitVal lowerOk c = some v ↔
    (v.toNat < 10 ∧ c.toNat = 0x30 + v.toNat) ∨ (10 ≤ v.toNat ∧ c.toNat = 0x41 + (v.toNat - 10)) ∨
    (lowerOk = true ∧ 10 ≤ v.toNat ∧ c.toNat = 0x61 + (v.toNat - 10)) := by
  have hv := v.isLt
  unfold digitVal
  split
  next hdec => simp only [Option.some.injEq, BitVec.toNat_eq, BitVec.toNat_ofNat]; omega
  split
  next hupper => simp only [Option.some.injEq, BitVec.toNat_eq, BitVec.toNat_ofNat]; omega
  split
  next hlower =>
    simp only [Option.some.injEq, BitVec.toNat_eq, BitVec.toNat_ofNat, hlower.1, true_and]; omega
  next hnone =>
    simp only [reduceCtorEq, false_iff]
    rintro (hd | hd | ⟨hok, hd⟩)
    · omega
    · omega
    · exact hnone ⟨hok, by omega⟩

/-- Settles O17, clause by clause. -/
theorem unhexReadsExactlyHexText : Obligations.UnhexReadsExactlyHexText := fun lowerOk =>
  ⟨digitVal_eq_some_iff lowerOk, unhex_eq_none_iff lowerOk,
    fun _ _ h => ⟨unhex_length h, fun _ _ hk => unhex_getElem? h hk⟩, unhex_hex lowerOk⟩

/-! ### The request body and its frames -/

@[simp] theorem body_length (slave func : BitVec 8) (start qty : BitVec 16) (extra : List Byte) :
    (body slave func start qty extra).length = 6 + extra.length := by
  simp [body]; omega

/-- The extra data stands behind the six bytes of the header. -/
theorem body_getElem?_extra (slave func : BitVec 8) (start qty : BitVec 16) (extra : List Byte) (k : Nat) :
    (body slave func start qty extra)[6 + k]? = extra[k]? := by
  rw [body, List.getElem?_append_right (by simp)]
  simp

@[simp] theorem rtuFrame_length (b : List Byte) : (rtuFrame b).length = b.length + 2 := by simp [rtuFrame]

theorem rtuFrame_getElem?_body {b : List Byte} {k : Nat} (h : k < b.length) : (rtuFrame b)[k]? = b[k]? :=
  List.getElem?_append_left h

theorem rtuFrame_getElem?_crc (b : List Byte) (k : Nat) : (rtuFrame b)[b.length + k]? = (crc16 b)[k]? := by
  rw [rtuFrame, List.getElem?_append_right (by omega), Nat.add_sub_cancel_left]

/-- Settles O15: the header by evaluation, the extra data and the CRC by their places behind it. -/
theorem rtuRequestFrameLayout : Obligations.RtuRequestFrameLayout := by
  intro slave func start qty extra b f
  have hlen : b.length = 6 + extra.length := body_length ..
  have hcrc (k : Nat) : f[6 + extra.length + k]? = (crc16 b)[k]? := hlen ▸ rtuFrame_getElem?_crc b k
  refine ⟨hlen, rfl, rfl, rfl, rfl, rfl, rfl, body_getElem?_extra slave func start qty extra, ?_, ?_, hcrc 0, ?_⟩
  · rw [show f.length = b.length + 2 from rtuFrame_length b]; omega
  · exact fun k hk => rtuFrame_getElem?_body (hlen ▸ hk)
  · rw [show 7 + extra.length = 6 + extra.length + 1 by omega, hcrc 1]; rfl

@[simp] theorem asciiFrame_length (b : List Byte) : (asciiFrame b).length = 2 * b.length + 5 := by
  simp [asciiFrame]

/-- Behind the colon stands the hex text of the body. -/
theorem asciiFrame_getElem?_body {b : List Byte} {j : Nat} (h : j < 2 * b.length) :
    (asciiFrame b)[1 + j]? = (hex b)[j]? := by
  simp [asciiFrame, Nat.add_comm 1 j, List.getElem?_append_left, h]

/-- Behind the hex text of the body stand the digits of the LRC, then CR and LF. -/
theorem asciiFrame_getElem?_trailer (b : List Byte) (j : Nat) :
    (asciiFrame b)[1 + 2 * b.length + j]? = (hex2 (lrc b) ++ [carriageReturn, lineFeed])[j]? := by
  rw [asciiFrame, List.append_assoc, List.getElem?_append_right (by simp; omega)]
  congr 1
  simp; omega

/-- Settles O16: each character by its place in the body's hex text or in the trailer. -/
theorem asciiRequestFrameLayout : Obligations.AsciiRequestFrameLayout := by
  intro slave func start qty extra b f n
  have hlen : b.length = 6 + n := body_length ..
  have htrailer (j : Nat) : f[13 + 2 * n + j]? = (hex2 (lrc b) ++ [carriageReturn, lineFeed])[j]? := by
    rw [← asciiFrame_getElem?_trailer, show 13 + 2 * n = 1 + 2 * b.length by omega]; rfl
  refine ⟨?_, rfl, fun k x hk => ?_, htrailer 0, ?_, ?_, ?_⟩
  · rw [show f.length = 2 * b.length + 5 from asciiFrame_length b]; omega
  · have hlt : k < b.length := (List.getElem?_eq_some_iff.mp hk).1
    obtain ⟨hhi, hlo⟩ := hex_getElem? hk
    refine ⟨(asciiFrame_getElem?_body (b := b) (by omega)).trans hhi, ?_⟩
    rw [show 2 + 2 * k = 1 + (2 * k + 1) by omega]
    exact (asciiFrame_getElem?_body (b := b) (by omega)).trans hlo
  · rw [show 14 + 2 * n = 13 + 2 * n + 1 by omega, htrailer 1]; rfl
  · rw [show 15 + 2 * n = 13 + 2 * n + 2 by omega, htrailer 2]; rfl
  · rw [show 16 + 2 * n = 13 + 2 * n + 3 by omega, htrailer 3]; rfl

end Sys2Proof.Machine
end

section
/-! The pseudo-instruction LOAD (30_encoding.md rule R126): each word of its expansion takes the machine
from one state of a staging to the next. -/

namespace Sys2Proof.Machine

/-- The state while LOAD stages: INBUF holds `acc`, the inputs `port` are still to come, nothing else
differs from `s`. -/
def State.staging (s : State) (acc : List Byte) (port : List HostInput) : State :=
  { s.setBuf .inb acc with port := port, ret := none }

@[simp] theorem staging_port (s : State) (acc : List Byte) (port : List HostInput) :
    (s.staging acc port).port = port := rfl

theorem staging_regsKept (s : State) (acc : List Byte) (port : List HostInput) :
    regsKept [.inlen] s (s.staging acc port) := fun r h => by
  cases r <;> first | rfl | simp at h

theorem staging_bytesKept (s : State) (acc : List Byte) (port : List HostInput) :
    bytesKept [.inb] s (s.staging acc port) := bytesKept_setBuf s .inb acc

theorem decode_encode_push (b : Byte) : decode (encode (.push b)) = .ok (.push b) := by
  rw [decode_eq_ok_iff, fieldsOf_encode]
  exact ⟨rfl, rfl, rfl, rfl⟩

/-- CLRIN begins the staging with an empty INBUF. -/
theorem step_clrin {s : State} {rest : List HostInput} (hp : s.port = .command (encode .clrin) :: rest) :
    step s = .next (s.staging [] rest) :=
  step_of_decode_ok (i := .clrin) hp (by decide)

/-- PUSH appends its byte while there is room. -/
theorem step_push_staging (s : State) {acc : List Byte} (b : Byte) (rest : List HostInput)
    (room : acc.length < s.par.inMax) :
    step (s.staging acc (.command (encode (.push b)) :: rest)) = .next (s.staging (acc ++ [b]) rest) := by
  rw [step_of_decode_ok (staging_port ..) (decode_encode_push b)]
  exact if_neg (Nat.ne_of_lt room)

/-- The words of one PUSH per byte append the bytes in order. -/
theorem run_pushes (s : State) (bytes acc : List Byte) (rest : List HostInput)
    (room : acc.length + bytes.length ≤ s.par.inMax) :
    Sys2Proof.core.run bytes.length
      (s.staging acc ((bytes.map .push).map (fun i => .command (encode i)) ++ rest)) =
      .next (s.staging (acc ++ bytes) rest) := by
  induction bytes generalizing acc with
  | nil => simp [Host.Core.run]
  | cons b bytes ih =>
    simp only [List.length_cons] at room
    have hstep := step_push_staging s b ((bytes.map .push).map (fun i => .command (encode i)) ++ rest)
      (acc := acc) (by omega)
    have hrest := ih (acc ++ [b]) (by simp; omega)
    rw [List.append_assoc] at hrest
    exact (run_succ_of_step hstep).trans hrest

/-- Settles O43: one step of CLRIN, then the run of the PUSHes. -/
theorem loadStagesExactlyItsBytes : Obligations.LoadStagesExactlyItsBytes := by
  intro bytes s rest hfit hp
  have hrun := (run_succ_of_step (step_clrin hp)).trans (run_pushes s bytes [] rest (by simpa using hfit))
  exact ⟨_, hrun, rfl, rfl, rfl, staging_regsKept s _ _, staging_bytesKept s _ _, rfl, rfl, rfl⟩

end Sys2Proof.Machine
end

section
/-! The checksums as functions of the byte sequence (40_checksum.md rules R130 to R136), and the two
commands that compute them. -/

namespace Sys2Proof.Machine

/-! ### CRC-16 -/

theorem crc16Value_append (s t : List Byte) : crc16Value (s ++ t) = crcFrom (crc16Value s) t :=
  crcFrom_append _ s t

/-- A byte equal to the whole accumulator cancels it, and zero is a fixed point of the loop. -/
theorem crcByte_self (b : Byte) : crcByte (b.setWidth 16) b = 0 := by
  simp [crcByte, crcShifts_of_zeros]

/-- The accumulator's own low byte clears bits 7:0, so the eight iterations only shift. -/
theorem crcByte_low (acc : BitVec 16) :
    crcByte acc (acc.extractLsb' 0 8) = (acc.extractLsb' 8 8).setWidth 16 := by
  rw [crcByte, crcShifts_of_zeros]
  · apply BitVec.eq_of_getLsbD_eq
    intro i hi
    by_cases h8 : i < 8
    · simp [h8, hi]
    · simp [h8, BitVec.getLsbD_of_ge acc (8 + i) (by omega)]
  · intro k hk
    simp [hk, show k < 16 by omega]

/-- Feeding an accumulator its own two bytes, low byte first, leaves zero (40_checksum.md rule R133 (c)). -/
theorem crcFrom_le16_self (acc : BitVec 16) : crcFrom acc (le16 acc) = 0 := by
  simp only [le16, crcFrom, crcByte_low, crcByte_self]

/-- The last two bytes of an RTU frame are the CRC of those before them (40_checksum.md rule R133 (d)). -/
theorem rtuFrame_ends_in_crc (b : List Byte) :
    (rtuFrame b).drop ((rtuFrame b).length - 2) = crc16 ((rtuFrame b).take ((rtuFrame b).length - 2)) := by
  rw [rtuFrame_length, Nat.add_sub_cancel, rtuFrame, List.drop_left, List.take_left]

/-- Settles O12: a sequence with its CRC appended streams into the accumulator's own two bytes. -/
theorem crcStreamsAndLeavesNoResidue : Obligations.CrcStreamsAndLeavesNoResidue := by
  refine ⟨rfl, crc16Value_append, fun s => ?_, fun _ _ _ _ _ => rtuFrame_ends_in_crc _⟩
  rw [crc16Value_append]
  exact crcFrom_le16_self _

/-- The bits of the reflected mask (40_checksum.md rule R134). -/
theorem getLsbD_crcMask (k : Nat) : (0xA001#16).getLsbD k = (k == 15 || k == 13 || k == 0) := by
  by_cases hk : k < 16
  · revert k; decide
  · rw [BitVec.getLsbD_of_ge _ _ (by omega)]
    simp; omega

/-- Every bit after one iteration: shifted in from the left neighbour, and inverted where the mask says so
if the low bit was set. -/
theorem getLsbD_crcShift (acc : BitVec 16) (k : Nat) : (crcShift acc).getLsbD k =
    (acc.getLsbD (k + 1) ^^ (acc.getLsbD 0 && (k == 15 || k == 13 || k == 0))) := by
  rw [Nat.add_comm k 1, ← BitVec.getLsbD_ushiftRight, ← getLsbD_crcMask]
  cases h : acc.getLsbD 0 with
  | false => rw [crcShift, h]; simp
  | true => rw [crcShift, h]; simp

/-- Settles O13: the rule for every bit, and the worked trace by evaluation. -/
theorem crcIterationShiftsAndInvertsThreeBits : Obligations.CrcIterationShiftsAndInvertsThreeBits :=
  ⟨getLsbD_crcShift, by decide, by decide, by decide⟩

/-! ### LRC -/

/-- The 8-bit sum is the sum on unbounded integers, truncated once (40_checksum.md rule R135). -/
theorem lrcSum_toNat (sum : Byte) (s : List Byte) :
    (lrcSum sum s).toNat = (sum.toNat + (s.map BitVec.toNat).sum) % 256 := by
  induction s generalizing sum with
  | nil => exact (Nat.mod_eq_of_lt sum.isLt).symm
  | cons b s ih =>
    rw [lrcSum, ih, BitVec.toNat_add, Nat.mod_add_mod, List.map_cons, List.sum_cons, Nat.add_assoc]

theorem lrc_toNat (s : List Byte) : (lrc s).toNat = (256 - (s.map BitVec.toNat).sum % 256) % 256 := by
  simp [lrc, lrcSum_toNat]

theorem lrc_of_perm {s t : List Byte} (h : s.Perm t) : lrc s = lrc t := by
  apply BitVec.eq_of_toNat_eq
  rw [lrc_toNat, lrc_toNat, (h.map BitVec.toNat).sum_eq]

/-- Settles O14: the LRC as a number; the order of the bytes is lost in the sum. -/
theorem lrcNegatesTheByteSum : Obligations.LrcNegatesTheByteSum := by
  refine ⟨lrc_toNat, fun s => ?_, fun _ _ => lrc_of_perm, rfl⟩
  rw [lrc_toNat]
  omega

/-! ### The commands -/

/-- Settles O10: the result is what the command writes, the rest is the frame of every command. -/
theorem crc16CommandResultAndFrame : Obligations.Crc16CommandResultAndFrame := by
  refine ⟨by decide, fun s => ?_, rfl, by decide +kernel⟩
  have hframe := exec_frame (i := .crc16) (s := s) rfl
  exact ⟨_, rfl, rfl, rfl, rfl, rfl, rfl, ⟨rfl, rfl⟩, hframe.regs, hframe.bytes, ⟨rfl, rfl, rfl⟩, hframe.host⟩

/-- Settles O11: the result is what the command writes, the rest is the frame of every command. -/
theorem lrcCommandResultAndFrame : Obligations.LrcCommandResultAndFrame := by
  refine ⟨by decide, fun s => ?_, by decide⟩
  have hframe := exec_frame (i := .lrc) (s := s) rfl
  exact ⟨_, rfl, rfl, rfl, rfl, rfl, rfl, ⟨rfl, rfl⟩, hframe.regs, hframe.bytes, ⟨rfl, rfl, rfl⟩, hframe.host⟩

end Sys2Proof.Machine
end

section
/-! The two parsers as functions of the byte sequence (41_frame_codec.md rules R155, R157, R160, R165): what
each accepts, and why it refuses the rest. -/

namespace Sys2Proof.Machine

/-! ### PARSE.RTU: a payload and its CRC -/

/-- A sequence that passes the length check is a non-empty payload and two bytes behind it. -/
theorem exists_payload_trailer {raw : List Byte} (h : 3 ≤ raw.length) :
    ∃ p c : List Byte, p ≠ [] ∧ c.length = 2 ∧ raw = p ++ c := by
  refine ⟨raw.take (raw.length - 2), raw.drop (raw.length - 2), ?_, ?_, (List.take_append_drop ..).symm⟩
  · exact List.ne_nil_of_length_pos (by rw [List.length_take]; omega)
  · rw [List.length_drop]; omega

/-- Behind a payload the parser compares two bytes with the payload's CRC. -/
theorem parseRtu_append {p c : List Byte} (hp : p ≠ []) (hc : c.length = 2) :
    parseRtu (p ++ c) = if crc16 p = c then .ok p else .error .checksumMismatch := by
  have hlen : (p ++ c).length - 2 = p.length := by simp [hc]
  have hlong : ¬ (p ++ c).length < 3 := by
    have := List.length_pos_iff.mpr hp
    rw [List.length_append]; omega
  rw [parseRtu, if_neg hlong, hlen, slice_prefix, slice_suffix, ite_not]

/-- The length check comes first and is the only cause of FrameTooShort. -/
theorem parseRtu_eq_frameTooShort_iff (raw : List Byte) :
    parseRtu raw = .error .frameTooShort ↔ raw.length < 3 := by
  refine ⟨fun h => by_contra fun hlong => ?_, fun h => if_pos h⟩
  obtain ⟨p, c, hp, hc, rfl⟩ := exists_payload_trailer (not_lt.mp hlong)
  rw [parseRtu_append hp hc] at h
  split at h <;> cases h

theorem three_le_length_of_ne_frameTooShort {raw : List Byte} (h : parseRtu raw ≠ .error .frameTooShort) :
    3 ≤ raw.length := not_lt.mp (mt (parseRtu_eq_frameTooShort_iff raw).mpr h)

/-- The accepted sequences are the frames of the non-empty payloads. -/
theorem parseRtu_eq_ok_iff {raw p : List Byte} : parseRtu raw = .ok p ↔ p ≠ [] ∧ raw = rtuFrame p := by
  constructor
  · intro h
    have hlong := three_le_length_of_ne_frameTooShort (raw := raw) (by simp [h])
    obtain ⟨q, c, hq, hc, rfl⟩ := exists_payload_trailer hlong
    rw [parseRtu_append hq hc] at h
    split at h <;> cases h
    next hcrc => exact ⟨hq, by rw [rtuFrame, hcrc]⟩
  · rintro ⟨hp, rfl⟩
    rw [rtuFrame, parseRtu_append hp (crc16_length p), if_pos rfl]

/-- ChecksumMismatch is what is left: long enough, and no frame. -/
theorem parseRtu_eq_checksumMismatch_iff (raw : List Byte) :
    parseRtu raw = .error .checksumMismatch ↔ 3 ≤ raw.length ∧ ∀ p, raw ≠ rtuFrame p := by
  constructor
  · intro h
    have hlong := three_le_length_of_ne_frameTooShort (raw := raw) (by simp [h])
    refine ⟨hlong, ?_⟩
    rintro p rfl
    have hp : p ≠ [] := by rintro rfl; simp at hlong
    rw [parseRtu_eq_ok_iff.mpr ⟨hp, rfl⟩] at h
    cases h
  · rintro ⟨hlong, hno⟩
    cases h : parseRtu raw with
    | ok p => exact absurd (parseRtu_eq_ok_iff.mp h).2 (hno p)
    | error c =>
      obtain rfl | rfl := parseRtu_error h
      · have := (parseRtu_eq_frameTooShort_iff raw).mp h
        omega
      · rfl

/-- Settles O19, outcome by outcome. -/
theorem parseRtuAcceptsExactlyGoodFrames : Obligations.ParseRtuAcceptsExactlyGoodFrames := fun raw =>
  ⟨fun _ => parseRtu_eq_ok_iff, parseRtu_eq_frameTooShort_iff raw, parseRtu_eq_checksumMismatch_iff raw,
    fun _ => parseRtu_error⟩

/-! ### The residue of an RTU frame, and what it does not protect against (41_frame_codec.md rule R157) -/

/-- A frame leaves the accumulator zero (40_checksum.md rule R133 (c)). -/
theorem crc16Value_rtuFrame (b : List Byte) : crc16Value (rtuFrame b) = 0 := by
  rw [rtuFrame, crc16Value_append]
  exact crcFrom_le16_self _

/-- Two sequences that differ in one byte differ in their CRC. -/
theorem eq_of_crc16Value_replace_eq {pre post : List Byte} {x y : Byte}
    (h : crc16Value (pre ++ x :: post) = crc16Value (pre ++ y :: post)) : x = y := by
  rw [crc16Value_append, crc16Value_append] at h
  exact crcByte_inj (crcFrom_inj (s := post) h)

/-- Settles O23: every frame has residue zero, so two frames cannot differ in one byte alone. -/
theorem anyOneCorruptedByteFailsTheCrc : Obligations.AnyOneCorruptedByteFailsTheCrc := by
  intro pre post x y p hxy hok
  obtain ⟨-, hraw⟩ := parseRtu_eq_ok_iff.mp hok
  have hlong := three_le_length_of_ne_frameTooShort (raw := pre ++ x :: post) (by simp [hok])
  refine (parseRtu_eq_checksumMismatch_iff _).mpr ⟨by simpa using hlong, fun q hq => hxy ?_⟩
  apply eq_of_crc16Value_replace_eq (pre := pre) (post := post)
  rw [hraw, hq, crc16Value_rtuFrame, crc16Value_rtuFrame]

/-- An accumulator below 256 is packed as its byte and a zero. -/
theorem le16_setWidth (b : Byte) : le16 (b.setWidth 16) = [b, 0] := by
  revert b; decide

/-- A frame is itself a payload, whose CRC is two zero bytes. -/
theorem rtuFrame_rtuFrame (p : List Byte) : rtuFrame (rtuFrame p) = rtuFrame p ++ [0, 0] := by
  rw [rtuFrame, crc16, crc16Value_rtuFrame]
  rfl

/-- A frame less its last byte is a payload, whose CRC is that byte and a zero. -/
theorem rtuFrame_dropLast_rtuFrame (p : List Byte) :
    rtuFrame (rtuFrame p).dropLast = rtuFrame p ++ [0] := by
  have hdrop : (rtuFrame p).dropLast = p ++ [(crc16Value p).extractLsb' 0 8] :=
    List.dropLast_append_of_ne_nil (by simp [crc16, le16])
  have hcrc : crc16 (rtuFrame p).dropLast = [(crc16Value p).extractLsb' 8 8, 0] := by
    rw [hdrop, crc16, crc16Value_append]
    simp only [crcFrom]
    rw [crcByte_low, le16_setWidth]
  rw [rtuFrame, hcrc, hdrop]
  simp [rtuFrame, crc16, le16]

/-- Settles O24: what stands before the last two bytes is a non-empty payload and they are its CRC. -/
theorem trailingZeroBytesStillParse : Obligations.TrailingZeroBytesStillParse := by
  intro raw p hok
  obtain ⟨-, rfl⟩ := parseRtu_eq_ok_iff.mp hok
  have hfull : rtuFrame p ≠ [] := List.ne_nil_of_length_pos (by simp)
  have hdropped : (rtuFrame p).dropLast ≠ [] := List.ne_nil_of_length_pos (by simp)
  exact ⟨parseRtu_eq_ok_iff.mpr ⟨hdropped, (rtuFrame_dropLast_rtuFrame p).symm⟩,
    parseRtu_eq_ok_iff.mpr ⟨hfull, (rtuFrame_rtuFrame p).symm⟩⟩

/-! ### PARSE.ASCII: the envelope, the hex text, the LRC -/

/-- The characters around a hex text (30_encoding.md rules R95, R96). -/
def asciiEnvelope (text : List Byte) : List Byte := [colon] ++ text ++ [carriageReturn, lineFeed]

@[simp] theorem asciiEnvelope_length (text : List Byte) :
    (asciiEnvelope text).length = text.length + 3 := by simp [asciiEnvelope]

/-- The text of an ASCII frame is the hex text of the body and its LRC. -/
theorem asciiFrame_eq_envelope (b : List Byte) : asciiFrame b = asciiEnvelope (hex (b ++ [lrc b])) := by
  simp [asciiFrame, asciiEnvelope, hex_append, hex]

/-- `raw` is an envelope whose text decodes to the bytes `p` and, last, the byte `x`. -/
def AsciiCarries (lowerOk : Bool) (raw p : List Byte) (x : Byte) : Prop :=
  ∃ text, raw = asciiEnvelope text ∧ unhex lowerOk text = some (p ++ [x])

/-- Inside an envelope the parser sees the text between the colon and CR LF. -/
theorem slice_asciiEnvelope (text : List Byte) :
    slice (asciiEnvelope text) 1 ((asciiEnvelope text).length - 2) = text := by
  simp [slice, asciiEnvelope]

/-- A colon at the front and CR LF at the end make an envelope: the checks leave no room for them to
overlap, because a colon is no CR. -/
theorem exists_eq_asciiEnvelope {raw : List Byte} (hcolon : raw[0]? = some colon) (hlen : 2 ≤ raw.length)
    (hcr : raw[raw.length - 2]? = some carriageReturn) (hlf : raw[raw.length - 1]? = some lineFeed) :
    ∃ text, raw = asciiEnvelope text := by
  have hlong : 3 ≤ raw.length := by
    by_contra hs
    rw [show raw.length - 2 = 0 by omega, hcolon] at hcr
    exact absurd hcr (by decide)
  obtain ⟨p, c, hp, hc, rfl⟩ := exists_payload_trailer hlong
  obtain ⟨first, text, rfl⟩ := List.exists_cons_of_ne_nil hp
  obtain ⟨cr, lf, rfl⟩ := List.length_eq_two.mp hc
  obtain rfl : first = colon := by simpa using hcolon
  obtain rfl : cr = carriageReturn := by simpa using hcr
  obtain rfl : lf = lineFeed := by simpa using hlf
  exact ⟨text, rfl⟩

/-- Inside an envelope the parser decodes the text and compares its last byte with the LRC of the others. -/
theorem parseAscii_of_carries {lowerOk : Bool} {raw p : List Byte} {x : Byte}
    (h : AsciiCarries lowerOk raw p x) :
    parseAscii lowerOk raw = if lrc p = x then .ok p else .error .checksumMismatch := by
  obtain ⟨text, rfl, htext⟩ := h
  have hends : ¬ ((asciiEnvelope text).length < 2 ∨
      (asciiEnvelope text)[(asciiEnvelope text).length - 2]? ≠ some carriageReturn ∨
      (asciiEnvelope text)[(asciiEnvelope text).length - 1]? ≠ some lineFeed) := by
    simp [asciiEnvelope]
  rw [parseAscii, if_neg (by simp [asciiEnvelope]), if_neg hends, slice_asciiEnvelope, htext]
  simp

/-- Whatever carries no byte at all is a FramingError: no envelope, no hex text, or an empty one. -/
theorem parseAscii_of_not_carries {lowerOk : Bool} {raw : List Byte}
    (h : ¬ ∃ p x, AsciiCarries lowerOk raw p x) : parseAscii lowerOk raw = .error .framingError := by
  unfold parseAscii
  split
  next => rfl
  next hcolon =>
    split
    next => rfl
    next hends =>
      simp only [not_or, not_not, not_lt] at hcolon hends
      obtain ⟨hlen, hcr, hlf⟩ := hends
      obtain ⟨text, rfl⟩ := exists_eq_asciiEnvelope hcolon hlen hcr hlf
      rw [slice_asciiEnvelope]
      cases hdec : unhex lowerOk text with
      | none => rfl
      | some dec =>
        obtain rfl | ⟨p, x, rfl⟩ := List.eq_nil_or_concat' dec
        · rfl
        · exact absurd ⟨p, x, text, rfl, hdec⟩ h

/-- The three outcomes of the parser and their causes. -/
theorem parseAscii_cases (lowerOk : Bool) (raw : List Byte) :
    (∃ p, AsciiCarries lowerOk raw p (lrc p) ∧ parseAscii lowerOk raw = .ok p) ∨
    (∃ p x, AsciiCarries lowerOk raw p x ∧ x ≠ lrc p ∧
      parseAscii lowerOk raw = .error .checksumMismatch) ∨
    ((¬ ∃ p x, AsciiCarries lowerOk raw p x) ∧ parseAscii lowerOk raw = .error .framingError) := by
  by_cases h : ∃ p x, AsciiCarries lowerOk raw p x
  · obtain ⟨p, x, hc⟩ := h
    have hout := parseAscii_of_carries hc
    by_cases hx : lrc p = x
    · subst hx; exact .inl ⟨p, hc, hout.trans (if_pos rfl)⟩
    · exact .inr (.inl ⟨p, x, hc, Ne.symm hx, hout.trans (if_neg hx)⟩)
  · exact .inr (.inr ⟨h, parseAscii_of_not_carries h⟩)

theorem parseAscii_eq_ok_iff {lowerOk : Bool} {raw p : List Byte} :
    parseAscii lowerOk raw = .ok p ↔ AsciiCarries lowerOk raw p (lrc p) := by
  refine ⟨fun h => ?_, fun h => (parseAscii_of_carries h).trans (if_pos rfl)⟩
  obtain ⟨q, hq, hout⟩ | ⟨_, _, _, _, hout⟩ | ⟨_, hout⟩ := parseAscii_cases lowerOk raw
  · rw [hout] at h; cases h; exact hq
  · rw [hout] at h; cases h
  · rw [hout] at h; cases h

theorem parseAscii_eq_checksumMismatch_iff {lowerOk : Bool} {raw : List Byte} :
    parseAscii lowerOk raw = .error .checksumMismatch ↔
      ∃ p x, AsciiCarries lowerOk raw p x ∧ x ≠ lrc p := by
  constructor
  · intro h
    obtain ⟨_, _, hout⟩ | ⟨p, x, hc, hx, -⟩ | ⟨_, hout⟩ := parseAscii_cases lowerOk raw
    · rw [hout] at h; cases h
    · exact ⟨p, x, hc, hx⟩
    · rw [hout] at h; cases h
  · rintro ⟨p, x, hc, hx⟩
    exact (parseAscii_of_carries hc).trans (if_neg (Ne.symm hx))

theorem parseAscii_eq_framingError_iff {lowerOk : Bool} {raw : List Byte} :
    parseAscii lowerOk raw = .error .framingError ↔ ¬ ∃ p x, AsciiCarries lowerOk raw p x := by
  refine ⟨fun h => ?_, parseAscii_of_not_carries⟩
  obtain ⟨_, _, hout⟩ | ⟨_, _, _, _, hout⟩ | ⟨hno, -⟩ := parseAscii_cases lowerOk raw
  · rw [hout] at h; cases h
  · rw [hout] at h; cases h
  · exact hno

/-- Settles O20, outcome by outcome: the statement writes out what the envelope carries. -/
theorem parseAsciiAcceptsExactlyGoodFrames : Obligations.ParseAsciiAcceptsExactlyGoodFrames := by
  refine fun lowerOk raw => ⟨fun _ => parseAscii_eq_ok_iff, parseAscii_eq_checksumMismatch_iff.trans ?_,
    parseAscii_eq_framingError_iff.trans (not_congr ?_), fun _ => parseAscii_error⟩
  · exact ⟨fun ⟨p, x, ⟨text, hraw, htext⟩, hx⟩ => ⟨text, p, x, hraw, htext, hx⟩,
      fun ⟨text, p, x, hraw, htext, hx⟩ => ⟨p, x, ⟨text, hraw, htext⟩, hx⟩⟩
  · exact ⟨fun ⟨p, x, text, hraw, htext⟩ => ⟨text, p, x, hraw, htext⟩,
      fun ⟨text, p, x, hraw, htext⟩ => ⟨p, x, text, hraw, htext⟩⟩

/-- The payload of an accepted ASCII frame is half as long as what stands between the colon and the LRC. -/
theorem parseAscii_length {lowerOk : Bool} {raw p : List Byte} (h : parseAscii lowerOk raw = .ok p) :
    raw.length = 2 * p.length + 5 := by
  obtain ⟨text, rfl, htext⟩ := parseAscii_eq_ok_iff.mp h
  rw [asciiEnvelope_length, unhex_length htext, List.length_append, List.length_singleton]
  omega

/-! ### The round trip (41_frame_codec.md rule R165) -/

theorem parseRtu_rtuFrame {b : List Byte} (hb : b ≠ []) : parseRtu (rtuFrame b) = .ok b :=
  parseRtu_eq_ok_iff.mpr ⟨hb, rfl⟩

theorem parseAscii_asciiFrame (lowerOk : Bool) (b : List Byte) :
    parseAscii lowerOk (asciiFrame b) = .ok b :=
  parseAscii_eq_ok_iff.mpr ⟨hex (b ++ [lrc b]), asciiFrame_eq_envelope b, unhex_hex lowerOk _⟩

/-- Settles O22: the body is never empty, and `unhex` inverts `hex` on every text. -/
theorem parseOfBuildIsTheBody : Obligations.ParseOfBuildIsTheBody := fun _ _ _ _ _ lowerOk =>
  ⟨parseRtu_rtuFrame (List.cons_ne_nil _ _), parseAscii_asciiFrame lowerOk _⟩

end Sys2Proof.Machine
end

section
/-! The four codec commands (41_frame_codec.md rules R151, R154, R156, R161, R167): a function of INBUF and
the parameters, left in OUTBUF and STATUS.CODE. -/

namespace Sys2Proof.Machine

/-! ### Words -/

/-- The word of a command passes the opcode check; what is left are the two checks on its operands. -/
theorem decode_encode_of_checks {i : Instr} (hz : (encodeFields i).restIsZero i.op = true)
    (hi : operands i.op (encodeFields i) = i) (hwf : WellFormed i = true) : decode (encode i) = .ok i := by
  have hop : (encodeFields i).op = i.op.code := by cases i <;> rfl
  rw [decode_eq_ok_iff, fieldsOf_encode]
  exact ⟨hop, hz, hi, hwf⟩

/-! ### The result and the frame -/

/-- The state a codec command leaves: its bytes in OUTBUF, its outcome in STATUS.CODE. -/
def State.codecEnd (s : State) (r : List Byte × Code) : State := (s.setBuf .out r.1).endWith r.2

/-- What a parse command answers (41_frame_codec.md rules R156, R161). -/
def parseAnswer : Except Code (List Byte) → List Byte × Code
  | .ok payload => (payload, .ok)
  | .error c => ([], c)

theorem endParse_eq_codecEnd (s : State) (r : Except Code (List Byte)) :
    s.endParse r = s.codecEnd (parseAnswer r) := by cases r <;> rfl

/-- Nothing is returned, and everything but OUTBUF, OUTLEN and STATUS.CODE is as before. -/
theorem codecEnd_frame (s : State) (r : List Byte × Code) :
    (s.codecEnd r).ret = none ∧ validBitsKept s (s.codecEnd r) ∧
    regsKept [.status, .outlen] s (s.codecEnd r) ∧ bytesKept [.out] s (s.codecEnd r) ∧
    transportKept s (s.codecEnd r) ∧ hostKept s (s.codecEnd r) := by
  have hframe : Frame [.out] [.outlen] s (s.codecEnd r) :=
    ((Frame.refl _ _ s).setBuf r.1 (by simp) (by simp [lengthReg])).endWith r.2
  exact ⟨rfl, ⟨rfl, rfl⟩, hframe.regs, hframe.bytes, ⟨rfl, rfl, rfl⟩, hframe.host⟩

theorem exec_parseRtu (s : State) :
    exec .parseRtu s = .next (s.codecEnd (parseAnswer (parseRtu (s.buf .inb)))) :=
  congrArg _ (endParse_eq_codecEnd s _)

theorem exec_parseAscii (s : State) :
    exec .parseAscii s = .next (s.codecEnd (parseAnswer (parseAscii s.par.hexLowerOk (s.buf .inb)))) :=
  congrArg _ (endParse_eq_codecEnd s _)

/-- A codec command is a function of the parameters and INBUF (41_frame_codec.md rule R167). -/
theorem exec_codec {i : Instr}
    (h : i.op = .buildRtu ∨ i.op = .buildAscii ∨ i.op = .parseRtu ∨ i.op = .parseAscii) :
    ∃ f : Params → List Byte → List Byte × Code,
      ∀ s, exec i s = .next (s.codecEnd (f s.par (s.buf .inb))) := by
  cases i with
  | buildRtu slave func start qty =>
    exact ⟨fun _ inb => (buildRtu slave func start qty inb, .ok), fun _ => rfl⟩
  | buildAscii slave func start qty =>
    exact ⟨fun _ inb => (buildAscii slave func start qty inb, .ok), fun _ => rfl⟩
  | parseRtu => exact ⟨fun _ inb => parseAnswer (parseRtu inb), exec_parseRtu⟩
  | parseAscii => exact ⟨fun par inb => parseAnswer (parseAscii par.hexLowerOk inb), exec_parseAscii⟩
  | crc16 | lrc | rdregs | regslice | push | clrin | ldb | rdr | setcfg => simp [Instr.op] at h

/-- Settles O25: one function answers for both states. -/
theorem codecCommandsArePure : Obligations.CodecCommandsArePure := by
  intro i s₁ s₂ t₁ t₂ hi hpar hinb h₁ h₂
  obtain ⟨f, hf⟩ := exec_codec hi
  rw [hf] at h₁ h₂
  cases h₁
  cases h₂
  obtain ⟨-, hvalid, hregs, hbytes, htransport, -⟩ := codecEnd_frame s₁ (f s₁.par (s₁.buf .inb))
  rw [← hpar, ← hinb]
  exact ⟨rfl, rfl, rfl, rfl, htransport, hregs, hbytes, hvalid⟩

/-- Settles O18: the words by their fields, the frames by definition. -/
theorem buildCommandsResultAndFrame : Obligations.BuildCommandsResultAndFrame :=
  fun slave func start qty s =>
    ⟨decode_encode_of_checks (i := .buildRtu slave func start qty) rfl rfl rfl,
      decode_encode_of_checks (i := .buildAscii slave func start qty) rfl rfl rfl,
      ⟨_, rfl, rfl, rfl, codecEnd_frame s (buildRtu slave func start qty (s.buf .inb), .ok)⟩,
      ⟨_, rfl, rfl, rfl, codecEnd_frame s (buildAscii slave func start qty (s.buf .inb), .ok)⟩⟩

/-- Settles O21: the parser's answer decides the bytes and the code; the frame is that of every codec
command. -/
theorem parseCommandsResultAndFrame : Obligations.ParseCommandsResultAndFrame := by
  refine ⟨by decide, by decide, ?_⟩
  rintro i s (rfl | rfl)
  · refine ⟨_, exec_parseRtu s, ?_, codecEnd_frame s _⟩
    rw [if_pos rfl]
    cases hr : parseRtu (s.buf .inb) with
    | ok p =>
      refine ⟨rfl, rfl, ?_⟩
      rw [if_pos rfl, parseRtu_length hr]; omega
    | error c =>
      obtain rfl | rfl := parseRtu_error hr
      · exact ⟨rfl, .inl ⟨rfl, rfl, rfl⟩⟩
      · exact ⟨rfl, .inr (.inl ⟨rfl, rfl⟩)⟩
  · refine ⟨_, exec_parseAscii s, ?_, codecEnd_frame s _⟩
    rw [if_neg (by decide)]
    cases hr : parseAscii s.par.hexLowerOk (s.buf .inb) with
    | ok p =>
      refine ⟨rfl, rfl, ?_⟩
      rw [if_neg (by decide), parseAscii_length hr]; omega
    | error c =>
      obtain rfl | rfl := parseAscii_error hr
      · exact ⟨rfl, .inr (.inr ⟨rfl, rfl, rfl⟩)⟩
      · exact ⟨rfl, .inr (.inl ⟨rfl, rfl⟩)⟩

end Sys2Proof.Machine
end

section
/-! What an RDREGS leaves, as a function of its operands, of CFG, of the parameters and of the transport's
answers (42_read_framer.md rules R180 to R190, R197). -/

namespace Sys2Proof.Machine

/-! ### The word -/

theorem encode_rdregs (start qty : BitVec 16) :
    encode (.rdregs start qty) = 0x30#8 ++ 0#16 ++ start ++ qty ++ 0#8 :=
  congrArg (fun head : BitVec 24 => head ++ start ++ qty ++ 0#8)
    (show 0x30#8 ++ 0#8 ++ 0#8 = 0x30#8 ++ 0#16 by decide)

theorem decode_rdregs (start qty : BitVec 16) :
    decode (0x30#8 ++ 0#16 ++ start ++ qty ++ 0#8) = .ok (.rdregs start qty) := by
  rw [← encode_rdregs]
  exact decode_encode_of_checks rfl rfl rfl

/-! ### The operations of a transaction -/

theorem readLength_eq_ite (par : Params) (mode : Mode) (qty : BitVec 16) :
    readLength par mode qty = if mode = .rtu then 5 + 2 * qty.toNat else par.asciiRxMax := by
  cases mode <;> rfl

theorem requestFrame_eq_ite (cfg : Cfg) (start qty : BitVec 16) :
    requestFrame cfg start qty = if cfg.mode = .rtu then buildRtu cfg.slave 3 start qty []
      else buildAscii cfg.slave 3 start qty [] := by
  obtain ⟨mode, slave⟩ := cfg
  cases mode <;> rfl

@[simp] theorem prepareRead_buf_tx (s : State) (start qty : BitVec 16) :
    (s.prepareRead start qty).buf .tx = [] := rfl
@[simp] theorem prepareRead_buf_rx (s : State) (start qty : BitVec 16) :
    (s.prepareRead start qty).buf .rx = [] := rfl
@[simp] theorem prepareRead_buf_pay (s : State) (start qty : BitVec 16) :
    (s.prepareRead start qty).buf .pay = [] := rfl

@[simp] theorem deliver_buf_pay (s : State) (p : List Byte) : (s.deliver p).buf .pay = p := rfl

/-- Equal buffers have equal length registers. -/
theorem readReg_lengthReg_of_buf {s t : State} {sp : Space} (h : s.buf sp = t.buf sp) :
    s.readReg (lengthReg sp) = t.readReg (lengthReg sp) := by
  rw [readReg_lengthReg, readReg_lengthReg, State.len, State.len, h]

@[simp] theorem byteCount_nil : byteCount [] = 0 := rfl
@[simp] theorem registerBytes_nil : registerBytes [] = [] := rfl

theorem byteCount_of_getElem? {p : List Byte} {b : Byte} (h : p[2]? = some b) : byteCount p = b := by
  simp [byteCount, h]

/-- The clamped slice behind the byteCount (42_read_framer.md rule R190). -/
theorem registerBytes_length (p : List Byte) :
    (registerBytes p).length = min (byteCount p).toNat (p.length - 3) := by
  rw [registerBytes, slice_length]; omega

/-! ### The outcomes and the classification -/

/-- A number names one outcome (60_exceptions.md rule R230). -/
theorem Code.find_num (c : Code) : Code.all.find? (fun d => d.num == c.num) = some c := by cases c <;> rfl

theorem Code.num_injective : Function.Injective Code.num := fun c d h =>
  Option.some.inj (by rw [← Code.find_num c, h, Code.find_num])

theorem parseAnswer_failed {r : Except Code (List Byte)} (h : (parseAnswer r).2 ≠ .ok) :
    (parseAnswer r).1 = [] := by
  cases r with
  | ok p => exact absurd rfl h
  | error c => rfl

/-- A response read and classified never leaves the outcome of the parser's length check or of an
unavailable transport (42_read_framer.md rules R183, R189). -/
theorem parseAnswer_classify_code (lowerOk : Bool) (mode : Mode) (qty : BitVec 16) (rx : List Byte) :
    (parseAnswer (classify lowerOk mode qty rx)).2 ≠ .frameTooShort ∧
    (parseAnswer (classify lowerOk mode qty rx)).2 ≠ .transportUnavailable := by
  cases h : classify lowerOk mode qty rx with
  | ok p => simp [parseAnswer]
  | error c => rcases classify_error_code h with rfl | rfl | rfl | rfl | rfl <;> simp [parseAnswer]

/-- The converse of `classify_ok`. -/
theorem classify_eq_ok_of {lowerOk : Bool} {mode : Mode} {qty : BitVec 16} {rx p : List Byte}
    (hne : rx ≠ []) (hlen : mode = .rtu → 5 + 2 * qty.toNat ≤ rx.length)
    (hp : parseAs lowerOk mode rx = .ok p) (h3 : 3 ≤ p.length) : classify lowerOk mode qty rx = .ok p := by
  have hshort : ¬ (mode = .rtu ∧ rx.length < 5 + 2 * qty.toNat) := fun ⟨hm, hlt⟩ => by
    have := hlen hm; omega
  rw [classify, if_neg (by simpa using hne), if_neg hshort, hp]
  exact if_neg (by omega)

/-- What a transaction of a parsed answer classifies: the bytes as read, `p` in full (42_read_framer.md
rules R187, R190). -/
theorem classify_read_of_parsed {par : Params} {mode : Mode} {qty : BitVec 16} {a : Answers} {p : List Byte}
    (h : if mode = .rtu then
        5 + 2 * qty.toNat ≤ a.rx.length ∧ parseRtu (a.rx.take (5 + 2 * qty.toNat)) = .ok p
      else parseAscii par.hexLowerOk (a.rx.take par.asciiRxMax) = .ok p ∧ 3 ≤ p.length) :
    3 ≤ p.length ∧ (mode = .rtu → p.length = 3 + 2 * qty.toNat) ∧
    classify par.hexLowerOk mode qty (a.read (readLength par mode qty)) = .ok p := by
  cases mode with
  | rtu =>
    rw [if_pos rfl] at h
    obtain ⟨hlong, hp⟩ := h
    have hread : (a.rx.take (5 + 2 * qty.toNat)).length = 5 + 2 * qty.toNat := List.length_take_of_le hlong
    have hlen := parseRtu_length hp
    have h3 : 3 ≤ p.length := by omega
    refine ⟨h3, fun _ => by omega, classify_eq_ok_of ?_ (fun _ => hread.ge) hp h3⟩
    exact List.ne_nil_of_length_pos (by rw [Answers.read, readLength]; omega)
  | ascii =>
    rw [if_neg (by decide)] at h
    obtain ⟨hp, h3⟩ := h
    have hlen := parseAscii_length hp
    refine ⟨h3, nofun, classify_eq_ok_of (mode := .ascii) ?_ nofun hp h3⟩
    exact List.ne_nil_of_length_pos (by rw [Answers.read, readLength]; omega)

/-! ### Payload and outcome -/

/-- The payload a transaction delivers, empty where it delivers none, and its outcome: of what stands in
the state it depends on CFG.MODE, the parameters and the answers alone (42_read_framer.md rule R185). -/
def transactionResult (par : Params) (mode : Mode) (qty : BitVec 16) (a : Answers) : List Byte × Code :=
  if a.flushOk = true ∧ a.writeOk = true then
    parseAnswer (classify par.hexLowerOk mode qty (a.read (readLength par mode qty)))
  else ([], .transportUnavailable)

section
variable {par : Params} {mode : Mode} {qty : BitVec 16} {a : Answers}

theorem transactionResult_refused (h : a.flushOk = false ∨ a.writeOk = false) :
    transactionResult par mode qty a = ([], .transportUnavailable) :=
  if_neg fun ⟨hf, hw⟩ => by simp [hf, hw] at h

theorem transactionResult_answered (hf : a.flushOk = true) (hw : a.writeOk = true) :
    transactionResult par mode qty a =
      parseAnswer (classify par.hexLowerOk mode qty (a.read (readLength par mode qty))) :=
  if_pos ⟨hf, hw⟩

variable (par mode qty a)

theorem transactionResult_cases : transactionResult par mode qty a = ([], .transportUnavailable) ∨
    ∃ rx, transactionResult par mode qty a = parseAnswer (classify par.hexLowerOk mode qty rx) := by
  unfold transactionResult
  split
  · exact .inr ⟨_, rfl⟩
  · exact .inl rfl

theorem transactionResult_ne_frameTooShort : (transactionResult par mode qty a).2 ≠ .frameTooShort := by
  obtain hr | ⟨rx, hr⟩ := transactionResult_cases par mode qty a
  · simp [hr]
  · rw [hr]; exact (parseAnswer_classify_code ..).1

variable {par mode qty a}

/-- A payload is delivered only with the outcome OK (42_read_framer.md rule R182). -/
theorem transactionResult_failed (h : (transactionResult par mode qty a).2 ≠ .ok) :
    (transactionResult par mode qty a).1 = [] := by
  obtain hr | ⟨rx, hr⟩ := transactionResult_cases par mode qty a
  · rw [hr]
  · rw [hr] at h ⊢; exact parseAnswer_failed h

end

/-- The registers and PAYBUF after a transaction of result `r` (42_read_framer.md rules R182, R190):
BYTECNT and RBLEN are those of the payload, also where it is empty. -/
structure ResultLeft (s : State) (start qty : BitVec 16) (r : List Byte × Code) (t : State) : Prop where
  status : t.status = ⟨r.2.num, decide (r.2 = .ok), s.status.cfgValid⟩
  pay : t.buf .pay = r.1
  bytecnt : t.readReg .bytecnt = some ((byteCount r.1).setWidth 32)
  rblen : t.readReg .rblen = some (BitVec.ofNat 32 (registerBytes r.1).length)
  rspStart : t.readReg .rspStart = some (start.setWidth 32)
  rspQty : t.readReg .rspQty = some (qty.setWidth 32)
  rdlen : t.readReg .rdlen = some (BitVec.ofNat 32 (readLength s.par s.cfg.mode qty))
  answers : t.answers = s.answers.tail

/-- What T0 wrote still stands when the transaction ends. -/
theorem TransactionStage.prepared {s u : State} {start qty : BitVec 16}
    (h : TransactionStage s start qty u) :
    u.buf .pay = [] ∧ u.bytecnt = .write 0 ∧ u.rblen = .write 0 ∧ u.rspStart = .write start ∧
    u.rspQty = .write qty ∧ u.rdlen = .write (BitVec.ofNat 32 (readLength s.par s.cfg.mode qty)) ∧
    u.answers = s.answers.tail := by
  cases h <;> simp [afterRead, afterWrite, afterFlush, buf_setBuf_other]

theorem TransactionStage.resultLeft_failed {s u : State} {start qty : BitVec 16}
    (h : TransactionStage s start qty u) {c : Code} (hc : c ≠ .ok) :
    ResultLeft s start qty ([], c) (u.endWith c) := by
  obtain ⟨hpay, hcnt, hrb, hstart, hqty, hlen, hans⟩ := h.prepared
  constructor <;> simp [State.readReg, h.status, *]

theorem TransactionStage.resultLeft_delivered {s u : State} {start qty : BitVec 16}
    (h : TransactionStage s start qty u) (p : List Byte) :
    ResultLeft s start qty (p, .ok) ((u.deliver p).endWith .ok) := by
  obtain ⟨-, -, -, hstart, hqty, hlen, hans⟩ := h.prepared
  have hfit : (BitVec.ofNat 8 (registerBytes p).length).setWidth 32 =
      BitVec.ofNat 32 (registerBytes p).length :=
    BitVec.setWidth_ofNat_of_le_of_lt (by decide) (by rw [registerBytes_length]; omega)
  constructor <;> simp [State.readReg, h.status, *]

/-- The whole result of an RDREGS in contract. -/
theorem resultLeft_of_exec {s t : State} {start qty : BitVec 16} (hv : s.status.cfgValid = true)
    (h : exec (.rdregs start qty) s = .next t) :
    ResultLeft s start qty (transactionResult s.par s.cfg.mode qty s.nextAnswers) t := by
  obtain ⟨hf, rfl⟩ | ⟨hf, hw, rfl⟩ | ⟨hf, hw, c, hcl, rfl⟩ | ⟨hf, hw, p, hcl, rfl⟩ :=
    execRdregs_cases hv h
  · rw [transactionResult_refused (.inl hf)]
    exact TransactionStage.flush.resultLeft_failed (by decide)
  · rw [transactionResult_refused (.inr hw)]
    exact TransactionStage.write.resultLeft_failed (by decide)
  · have hc : c ≠ .ok := by rcases classify_error_code hcl with rfl | rfl | rfl | rfl | rfl <;> decide
    rw [transactionResult_answered hf hw, hcl]
    exact TransactionStage.read.resultLeft_failed hc
  · rw [transactionResult_answered hf hw, hcl]
    exact TransactionStage.read.resultLeft_delivered p

/-! ### Traffic -/

section
variable (par : Params) (cfg : Cfg) (start qty : BitVec 16) (a : Answers)

/-- The calls one transaction makes, cut behind the first `false` (42_read_framer.md rule R183). -/
def callsMade : List TransportCall :=
  if a.flushOk = false then [.resetInputBuffer]
  else if a.writeOk = false then [.resetInputBuffer, .write (requestFrame cfg start qty)]
  else [.resetInputBuffer, .write (requestFrame cfg start qty), .read (readLength par cfg.mode qty)]

/-- TXBUF at its end: the request, once the flush is answered. -/
def requestSent : List Byte := if a.flushOk = false then [] else requestFrame cfg start qty

/-- RXBUF at its end: what was read, once the write is answered. -/
def bytesRead : List Byte :=
  if a.flushOk = false ∨ a.writeOk = false then [] else a.read (readLength par cfg.mode qty)

end

/-- What an RDREGS in contract has exchanged with the transport. -/
structure TrafficLeft (s : State) (start qty : BitVec 16) (t : State) : Prop where
  calls : t.calls = s.calls ++ callsMade s.par s.cfg start qty s.nextAnswers
  tx : t.buf .tx = requestSent s.cfg start qty s.nextAnswers
  rx : t.buf .rx = bytesRead s.par s.cfg qty s.nextAnswers

theorem afterFlush_traffic {s : State} (start qty : BitVec 16) (hf : s.nextAnswers.flushOk = false) :
    TrafficLeft s start qty (afterFlush s start qty) := by
  constructor <;> simp [afterFlush, callsMade, requestSent, bytesRead, hf]

theorem afterWrite_traffic {s : State} (start qty : BitVec 16) (hf : s.nextAnswers.flushOk = true)
    (hw : s.nextAnswers.writeOk = false) : TrafficLeft s start qty (afterWrite s start qty) := by
  constructor <;> simp [afterWrite, afterFlush, buf_setBuf_other, callsMade, requestSent, bytesRead, hf, hw]

theorem afterRead_traffic {s : State} (start qty : BitVec 16) (hf : s.nextAnswers.flushOk = true)
    (hw : s.nextAnswers.writeOk = true) : TrafficLeft s start qty (afterRead s start qty) := by
  constructor <;> simp [afterRead, afterWrite, afterFlush, buf_setBuf_other, callsMade, requestSent,
    bytesRead, hf, hw]

/-- Leaving an outcome and delivering a payload exchange nothing. -/
theorem TrafficLeft.endWith {s u : State} {start qty : BitVec 16} (h : TrafficLeft s start qty u)
    (c : Code) : TrafficLeft s start qty (u.endWith c) := ⟨h.calls, h.tx, h.rx⟩

theorem TrafficLeft.deliver {s u : State} {start qty : BitVec 16} (h : TrafficLeft s start qty u)
    (p : List Byte) : TrafficLeft s start qty (u.deliver p) := ⟨h.calls, h.tx, h.rx⟩

theorem trafficLeft_of_exec {s t : State} {start qty : BitVec 16} (hv : s.status.cfgValid = true)
    (h : exec (.rdregs start qty) s = .next t) : TrafficLeft s start qty t := by
  obtain ⟨hf, rfl⟩ | ⟨hf, hw, rfl⟩ | ⟨hf, hw, c, -, rfl⟩ | ⟨hf, hw, p, -, rfl⟩ := execRdregs_cases hv h
  · exact (afterFlush_traffic start qty hf).endWith _
  · exact (afterWrite_traffic start qty hf hw).endWith _
  · exact (afterRead_traffic start qty hf hw).endWith c
  · exact ((afterRead_traffic start qty hf hw).deliver p).endWith .ok

/-! ### The statements about RDREGS -/

/-- Settles O26: out of contract it is the illegal command; in contract the result has what T0 wrote, and a
payload only where the outcome is OK. -/
theorem rdregsContractAndPreparation : Obligations.RdregsContractAndPreparation := by
  refine fun s start qty => ⟨decode_rdregs start qty, fun hv => ?_, fun hv => ?_⟩
  · exact ⟨_, if_neg (by simp [hv]), illegalCommand_effect s⟩
  · obtain ⟨t, ht⟩ := exec_total (.rdregs start qty) s
    have hres := resultLeft_of_exec hv ht
    refine ⟨t, ht, execRdregs_code_ne_fifteen hv ht, hres.rspStart, hres.rspQty,
      readLength_eq_ite s.par s.cfg.mode qty ▸ hres.rdlen, fun hcode => ?_⟩
    have hfail : (transactionResult s.par s.cfg.mode qty s.nextAnswers).2 ≠ .ok := fun hok => by
      rw [hres.status, hok] at hcode
      exact hcode rfl
    have hnone := transactionResult_failed hfail
    refine ⟨by simp [hres.status, hfail], hres.pay.trans hnone, ?_, ?_⟩
    · rw [hres.bytecnt, hnone]; rfl
    · rw [hres.rblen, hnone]; rfl

/-- Settles O27: the calls, TXBUF and RXBUF are those of the traffic, the code is that of the result. -/
theorem rdregsTransportCalls : Obligations.RdregsTransportCalls := by
  intro s start qty hv
  obtain ⟨t, ht⟩ := exec_total (.rdregs start qty) s
  have hcode := congrArg Status.code (resultLeft_of_exec hv ht).status
  obtain ⟨hcalls, htx, hrx⟩ := trafficLeft_of_exec hv ht
  simp only [← readLength_eq_ite, ← requestFrame_eq_ite]
  refine ⟨t, ht, fun hf => ?_, fun hf hw => ?_, fun hf hw => ?_⟩
  · rw [hcalls, htx, hrx, hcode, transactionResult_refused (.inl hf)]
    simp [callsMade, requestSent, bytesRead, hf, Code.num]
  · rw [hcalls, htx, hrx, hcode, transactionResult_refused (.inr hw)]
    simp [callsMade, requestSent, bytesRead, hf, hw, Code.num]
  · rw [hcalls, htx, hrx, hcode, transactionResult_answered hf hw]
    obtain ⟨-, hne⟩ := parseAnswer_classify_code s.par.hexLowerOk s.cfg.mode qty
      (s.nextAnswers.read (readLength s.par s.cfg.mode qty))
    exact ⟨by simp [callsMade, hf, hw], Code.num_injective.ne hne, by simp [requestSent, hf],
      by simp [bytesRead, hf, hw, Answers.read]⟩

/-- Settles O29: the bytes read are classified as `p`, and the result of the transaction is `p` with OK. -/
theorem rdregsSuccessDeliversThePayload : Obligations.RdregsSuccessDeliversThePayload := by
  intro s start qty p hv hf hw hparse
  obtain ⟨h3, hlen, hcl⟩ := classify_read_of_parsed hparse
  obtain ⟨t, ht⟩ := exec_total (.rdregs start qty) s
  have hres := resultLeft_of_exec hv ht
  rw [transactionResult_answered hf hw, hcl] at hres
  refine ⟨t, ht, by rw [hres.status]; rfl, by rw [hres.status]; rfl, hres.pay, h3, hlen, fun b hb => ?_⟩
  have hcount := byteCount_of_getElem? hb
  have hrblen : t.readReg .rblen = some (BitVec.ofNat 32 (min b.toNat (p.length - 3))) := by
    rw [hres.rblen, ← hcount, ← registerBytes_length]; rfl
  refine ⟨by rw [hres.bytecnt, ← hcount]; rfl, hrblen, fun hm => ?_⟩
  rw [hrblen, hlen hm, Nat.add_sub_cancel_left]

/-- Settles O30: the frame of every command, for RDREGS, and one triple of answers used up. -/
theorem rdregsFrame : Obligations.RdregsFrame := by
  intro s t start qty hv h
  have hframe := exec_frame h
  have hres := resultLeft_of_exec hv h
  exact ⟨hframe.bytes, hframe.regs, by rw [hres.status, hv], hres.answers, hframe.host⟩

/-- Settles O31: no transaction has the outcome FrameTooShort. -/
theorem rdregsNeverReportsFrameTooShort : Obligations.RdregsNeverReportsFrameTooShort := by
  intro s t start qty hv h
  rw [(resultLeft_of_exec hv h).status]
  exact Code.num_injective.ne (transactionResult_ne_frameTooShort s.par s.cfg.mode qty s.nextAnswers)

/-- Settles O32: the two transactions have one result. -/
theorem rdregsOutcomeDependsOnTheResponseOnly : Obligations.RdregsOutcomeDependsOnTheResponseOnly := by
  intro s₁ s₂ t₁ t₂ start₁ start₂ qty hv₁ hv₂ hmode hpar hans _ _ h₁ h₂
  have hres₁ := resultLeft_of_exec hv₁ h₁
  have hres₂ := resultLeft_of_exec hv₂ h₂
  rw [hmode, hpar, hans] at hres₁
  exact ⟨by rw [hres₁.status, hres₂.status], hres₁.pay.trans hres₂.pay.symm,
    hres₁.bytecnt.trans hres₂.bytecnt.symm, hres₁.rblen.trans hres₂.rblen.symm⟩

/-- Settles O33: result and traffic are functions of what the two states share. -/
theorem rdregsForgetsEarlierTransactions : Obligations.RdregsForgetsEarlierTransactions := by
  intro s₁ s₂ t₁ t₂ start qty hv₁ hv₂ hcfg hpar hans h₁ h₂
  have hres₁ := resultLeft_of_exec hv₁ h₁
  have hres₂ := resultLeft_of_exec hv₂ h₂
  obtain ⟨hcalls₁, htx₁, hrx₁⟩ := trafficLeft_of_exec hv₁ h₁
  obtain ⟨hcalls₂, htx₂, hrx₂⟩ := trafficLeft_of_exec hv₂ h₂
  simp only [hcfg, hpar, hans] at hres₁ hcalls₁ htx₁ hrx₁
  have htx := htx₁.trans htx₂.symm
  have hrx := hrx₁.trans hrx₂.symm
  have hpay := hres₁.pay.trans hres₂.pay.symm
  refine ⟨by rw [hres₁.status, hres₂.status, hv₁, hv₂], htx, hrx, hpay, ?_, ?_⟩
  · have hrdlen := hres₁.rdlen
    rw [hcfg, hpar] at hrdlen
    simp only [List.forall_mem_cons, List.not_mem_nil, false_implies, implies_true, and_true]
    exact ⟨hrdlen.trans hres₂.rdlen.symm, hres₁.rspStart.trans hres₂.rspStart.symm,
      hres₁.rspQty.trans hres₂.rspQty.symm, hres₁.bytecnt.trans hres₂.bytecnt.symm,
      hres₁.rblen.trans hres₂.rblen.symm, readReg_lengthReg_of_buf htx, readReg_lengthReg_of_buf hrx,
      readReg_lengthReg_of_buf hpay⟩
  · rw [hcalls₁, hcalls₂, List.drop_left, List.drop_left]

end Sys2Proof.Machine
end

section
/-! REGSLICE: its word, the three lengths of a slice, and what the command leaves (42_read_framer.md
rule R195). -/

namespace Sys2Proof.Machine

/-! ### The word -/

theorem extractLsb'_halves (index : BitVec 32) :
    index.extractLsb' 16 16 ++ index.extractLsb' 0 16 = index :=
  BitVec.extractLsb'_append_extractLsb' (w := 16) (len := 16)

theorem encode_regslice (index : BitVec 32) :
    encode (.regslice index) = 0x31#8 ++ 0#16 ++ index ++ 0#8 := by
  calc encode (.regslice index)
    _ = 0x31#8 ++ 0#8 ++ 0#8 ++ index.extractLsb' 16 16 ++ index.extractLsb' 0 16 ++ 0#8 := rfl
    _ = 0x31#8 ++ 0#8 ++ 0#8 ++ (index.extractLsb' 16 16 ++ index.extractLsb' 0 16) ++ 0#8 :=
      congrArg (fun x : BitVec 56 => x ++ 0#8) BitVec.append_assoc
    _ = 0x31#8 ++ 0#16 ++ index ++ 0#8 :=
      congrArg₂ (fun (x : BitVec 24) (y : BitVec 32) => x ++ y ++ 0#8) (by decide)
        (extractLsb'_halves index)

theorem decode_regslice (index : BitVec 32) :
    decode (0x31#8 ++ 0#16 ++ index ++ 0#8) = .ok (.regslice index) := by
  rw [← encode_regslice]
  exact decode_encode_of_checks rfl (congrArg Instr.regslice (extractLsb'_halves index)) rfl

/-! ### The slice -/

/-- Two bytes where RBLEN reaches past both, one where it ends between them, none where it ends before. -/
theorem sliceLength_eq_two {rblen i : Nat} (h : 2 * i + 2 ≤ rblen) : sliceLength rblen i = 2 := if_pos h

theorem sliceLength_eq_one {rblen i : Nat} (h : rblen = 2 * i + 1) : sliceLength rblen i = 1 := by
  rw [sliceLength, if_neg (by omega), if_pos h]

theorem sliceLength_eq_zero {rblen i : Nat} (h : rblen ≤ 2 * i) : sliceLength rblen i = 0 := by
  rw [sliceLength, if_neg (by omega), if_neg (by omega)]

theorem sliceLength_le_two (rblen i : Nat) : sliceLength rblen i ≤ 2 := by
  unfold sliceLength
  split_ifs <;> omega

/-- What a REGSLICE in contract leaves: the registers as the host reads them (42_read_framer.md rule R195). -/
structure SliceLeft (s : State) (i : Nat) (t : State) : Prop where
  status : t.status = ⟨0, s.status.rspValid, s.status.cfgValid⟩
  ret : t.ret = none
  regaddr : t.readReg .regaddr = some (BitVec.ofNat 32 (s.rspStart.value.toNat + i))
  reglen : t.readReg .reglen = some (BitVec.ofNat 32 (sliceLength s.rblen.value.toNat i))
  regb0 : t.readReg .regb0 = some ((if 1 ≤ sliceLength s.rblen.value.toNat i then
    (s.buf .pay).getD (3 + 2 * i) 0 else 0).setWidth 32)
  regb1 : t.readReg .regb1 = some ((if sliceLength s.rblen.value.toNat i = 2 then
    (s.buf .pay).getD (4 + 2 * i) 0 else 0).setWidth 32)
  transport : transportKept s t

theorem exec_regslice_of_inContract {s : State} {index : BitVec 32} (hv : s.status.rspValid = true)
    (hi : index.toNat < s.rspQty.value.toNat) :
    ∃ t, exec (.regslice index) s = .next t ∧ SliceLeft s index.toNat t := by
  have hin : ¬ (s.status.rspValid = false ∨ s.rspQty.value.toNat ≤ index.toNat) := by simp [hv, hi]
  have haddr : s.rspStart.value.toNat + index.toNat < 2 ^ 17 := by omega
  have hlen := sliceLength_le_two s.rblen.value.toNat index.toNat
  refine ⟨_, if_neg hin, rfl, rfl, congrArg some ?_, congrArg some ?_, rfl, rfl, rfl, rfl, rfl⟩
  · exact BitVec.setWidth_ofNat_of_le_of_lt (by decide) haddr
  · exact BitVec.setWidth_ofNat_of_le_of_lt (by decide) (by omega)

theorem getD_of_readByte {s : State} {sp : Space} {k : Nat} {b : Byte} (h : s.readByte sp k = some b) :
    (s.buf sp).getD k 0 = b := by
  rw [List.getD_eq_getElem?_getD]
  exact congrArg (·.getD 0) h

/-- Settles O35: off its contract it is the illegal command; in contract each length clause fixes the number
of bytes, and the frame is that of every command. -/
theorem regsliceResultAndFrame : Obligations.RegsliceResultAndFrame := by
  refine fun s index => ⟨decode_regslice index, fun hout => ?_, fun hv hi => ?_⟩
  · exact ⟨_, if_pos hout, illegalCommand_effect s⟩
  · obtain ⟨t, ht, hleft⟩ := exec_regslice_of_inContract hv hi
    obtain ⟨hstatus, hret, haddr, hlen, hb0, hb1, htransport⟩ := hleft
    have hframe := exec_frame ht
    refine ⟨t, ht, by rw [hstatus], hret, by rw [validBitsKept, hstatus]; exact ⟨rfl, rfl⟩, haddr,
      fun h2 => ?_, fun h1 => ?_, fun h0 => ?_, hframe.regs, hframe.bytes, htransport, hframe.host⟩
    · rw [sliceLength_eq_two h2] at hlen hb0 hb1
      exact ⟨hlen, fun x hx => by rw [hb0, getD_of_readByte hx]; rfl,
        fun y hy => by rw [hb1, getD_of_readByte hy]; rfl⟩
    · rw [sliceLength_eq_one h1] at hlen hb0 hb1
      exact ⟨hlen, hb1, fun x hx => by rw [hb0, getD_of_readByte hx]; rfl⟩
    · rw [sliceLength_eq_zero h0] at hlen hb0 hb1
      exact ⟨hlen, hb0, hb1⟩

end Sys2Proof.Machine
end

section
/-! The host access commands (43_host_access.md rules R210 to R218): their words, the illegal command where
the contract ends, and in contract the whole next state or the one byte that differs. -/

namespace Sys2Proof

/-! ### Words of the formats P, C, X and G -/

/-- Fields of zeros next to each other are one block of zeros. -/
theorem append_zeros_zeros {w : Nat} (x : BitVec w) (m n : Nat) :
    (x ++ 0#m ++ 0#n).toNat = (x ++ 0#(m + n)).toNat := by
  simp [BitVec.toNat_append, ← Nat.shiftLeft_add]

/-- With `c` and `d` zero, everything below field `b` is zero (format C). -/
theorem word_of_ab (op a b : BitVec 8) : (Fields.mk op a b 0 0 0).word = op ++ a ++ b ++ 0#40 := by
  calc op ++ a ++ b ++ 0#16 ++ 0#16 ++ 0#8
    _ = op ++ a ++ b ++ 0#32 ++ 0#8 := congrArg (fun x : BitVec 56 => x ++ 0#8)
      (BitVec.eq_of_toNat_eq (append_zeros_zeros (op ++ a ++ b) 16 16))
    _ = op ++ a ++ b ++ 0#40 := BitVec.eq_of_toNat_eq (append_zeros_zeros (op ++ a ++ b) 32 8)

/-- With `b` zero as well, everything below field `a` is zero (formats P and G). -/
theorem word_of_a (op a : BitVec 8) : (Fields.mk op a 0 0 0 0).word = op ++ a ++ 0#48 :=
  (word_of_ab op a 0).trans (BitVec.eq_of_toNat_eq (append_zeros_zeros (op ++ a) 8 40))

/-- The fields `c` and `d` joined are the operand `index` (format X). -/
theorem word_of_index (op a : BitVec 8) (index : BitVec 32) :
    (Fields.mk op a 0 (index.extractLsb' 16 16) (index.extractLsb' 0 16) 0).word =
      op ++ a ++ 0#8 ++ index ++ 0#8 :=
  congrArg (fun x : BitVec 56 => x ++ 0#8) (BitVec.append_assoc.trans
    (congrArg (fun x : BitVec 32 => op ++ a ++ 0#8 ++ x) (Machine.extractLsb'_halves index)))

/-- An operand narrower than its field stands below zeros (LDB's space, RDR's register number). -/
theorem append_zeros_append {w k : Nat} (op : BitVec 8) (n : BitVec w) :
    (op ++ 0#k ++ n).toNat = (op ++ n.setWidth (k + w)).toNat := by
  have hn : n.toNat < 2 ^ (k + w) := n.isLt.trans_le (Nat.pow_le_pow_right (by decide) (by omega))
  simp [BitVec.toNat_append, ← Nat.shiftLeft_add, Nat.mod_eq_of_lt hn]

theorem encode_push (b : Byte) : encode (.push b) = 0x40#8 ++ b ++ 0#48 := word_of_a _ _

theorem encode_setcfg (mode : Mode) (slave : BitVec 8) : encode (.setcfg mode slave) =
    0x50#8 ++ (if mode = .ascii then 1#8 else 0#8) ++ slave ++ 0#40 := by
  cases mode <;> exact word_of_ab _ _ _

theorem encode_ldb (n : BitVec 3) (index : BitVec 32) :
    encode (.ldb n index) = 0x42#8 ++ 0#5 ++ n ++ 0#8 ++ index ++ 0#8 := by
  have hhead : 0x42#8 ++ 0#5 ++ n = 0x42#8 ++ n.setWidth 8 :=
    BitVec.eq_of_toNat_eq (append_zeros_append _ n)
  rw [hhead]
  exact word_of_index _ _ index

theorem encode_rdr (n : BitVec 5) : encode (.rdr n) = 0x43#8 ++ 0#3 ++ n ++ 0#48 := by
  have hhead : 0x43#8 ++ 0#3 ++ n = 0x43#8 ++ n.setWidth 8 :=
    BitVec.eq_of_toNat_eq (append_zeros_append _ n)
  rw [hhead]
  exact word_of_a _ _

/-! ### Decoding them -/

/-- A space number fits the three bits the mask leaves free in field `a`. -/
theorem space_in_field (n : BitVec 3) :
    (n.setWidth 8).extractLsb' 3 5 = 0 ∧ (n.setWidth 8).extractLsb' 0 3 = n := by
  revert n; decide

/-- A register number fits the five bits the mask leaves free in field `a`. -/
theorem register_in_field (n : BitVec 5) :
    (n.setWidth 8).extractLsb' 5 3 = 0 ∧ (n.setWidth 8).extractLsb' 0 5 = n := by
  revert n; decide

/-- A mode fits the one bit the mask leaves free in field `a`. -/
theorem mode_in_field (mode : Mode) :
    ((BitVec.ofBool (bitOfMode mode)).setWidth 8).extractLsb' 1 7 = 0 ∧
    modeOfBit (((BitVec.ofBool (bitOfMode mode)).setWidth 8).getLsbD 0) = mode := by
  cases mode <;> decide

theorem decode_setcfg (mode : Mode) (slave : BitVec 8) :
    decode (0x50#8 ++ (if mode = .ascii then 1#8 else 0#8) ++ slave ++ 0#40) = .ok (.setcfg mode slave) := by
  obtain ⟨hhigh, hlow⟩ := mode_in_field mode
  rw [← encode_setcfg]
  refine Machine.decode_encode_of_checks ?_ (congrArg (Instr.setcfg · slave) hlow) rfl
  simp [encodeFields, Fields.restIsZero, Instr.op, Op.format, hhigh]

theorem decode_ldb {n : BitVec 3} (h : n.toNat ≤ 4) (index : BitVec 32) :
    decode (0x42#8 ++ 0#5 ++ n ++ 0#8 ++ index ++ 0#8) = .ok (.ldb n index) := by
  obtain ⟨hhigh, hlow⟩ := space_in_field n
  rw [← encode_ldb]
  refine Machine.decode_encode_of_checks ?_ ?_ (decide_eq_true h)
  · simp [encodeFields, Fields.restIsZero, Instr.op, Op.format, hhigh]
  · exact congrArg₂ Instr.ldb hlow (Machine.extractLsb'_halves index)

theorem decode_rdr {n : BitVec 5} (h : n.toNat ≤ 17) :
    decode (0x43#8 ++ 0#3 ++ n ++ 0#48) = .ok (.rdr n) := by
  obtain ⟨hhigh, hlow⟩ := register_in_field n
  rw [← encode_rdr]
  refine Machine.decode_encode_of_checks ?_ (congrArg Instr.rdr hlow) (decide_eq_true h)
  simp [encodeFields, Fields.restIsZero, Instr.op, Op.format, hhigh]

theorem Op.code_injective : Function.Injective Op.code := fun o o' h =>
  Option.some.inj (by rw [← ofCode_code o, h, ofCode_code o'])

/-- A word whose opcode is a row's, but whose field `a` breaks the row's value constraint, is no command:
no other row claims it (30_encoding.md rules R114, R120). -/
theorem exists_decode_error_of_constraint {o : Op} {f : Fields} (hop : f.op = o.code)
    (hc : o.constraint f.word = false) : ∃ r, decode f.word = .error r := by
  cases hd : decode f.word with
  | error r => exact ⟨r, rfl⟩
  | ok i =>
    obtain ⟨hi, -⟩ := decode_eq_ok_iff.mp hd
    rw [fieldsOf_word] at hi
    obtain rfl : i.op = o := Op.code_injective (hi.symm.trans hop)
    obtain ⟨-, hmet⟩ := (decoderAgreesWithMatchMaskTable f.word i.op).mp ⟨i, hd, rfl⟩
    simp [hc] at hmet

/-- Field `a` read back from a word, as the value constraints read it. -/
theorem extractLsb'_a (f : Fields) : f.word.extractLsb' 48 8 = f.a := congrArg Fields.a (fieldsOf_word f)

theorem decode_ldb_error {a : BitVec 8} (h : 4 < a.toNat) (index : BitVec 32) :
    ∃ r, decode (0x42#8 ++ a ++ 0#8 ++ index ++ 0#8) = .error r := by
  rw [← word_of_index]
  refine exists_decode_error_of_constraint (o := .ldb) rfl ?_
  simpa [Op.constraint, extractLsb'_a] using h

theorem decode_rdr_error {a : BitVec 8} (h : 17 < a.toNat) :
    ∃ r, decode (0x43#8 ++ a ++ 0#48) = .error r := by
  rw [← word_of_a]
  refine exists_decode_error_of_constraint (o := .rdr) rfl ?_
  simpa [Op.constraint, extractLsb'_a] using h

end Sys2Proof

namespace Sys2Proof.Machine

/-! ### Off the contract -/

/-- On the list of 30_encoding.md rule R121 every command is the illegal command. -/
theorem exec_illegal_of_outOfContract {i : Instr} {s : State} (h : outOfContract i s = true) :
    ∃ t, exec i s = .next t ∧ illegalEffect s t := by
  obtain ⟨t, ht⟩ := exec_total i s
  obtain ⟨-, rfl⟩ | ⟨hin, -⟩ := exec_cases ht
  · exact ⟨_, ht, illegalCommand_effect s⟩
  · simp [h] at hin

/-! ### SETCFG -/

theorem toNat_slave_mode (slave : BitVec 8) (m : BitVec 1) :
    (0#16 ++ slave ++ 0#7 ++ m).toNat = 256 * slave.toNat + m.toNat := by
  rw [BitVec.toNat_append, ← Nat.shiftLeft_add_eq_or_of_lt m.isLt]
  simp only [BitVec.toNat_append, BitVec.toNat_ofNat, Nat.zero_mod, Nat.zero_mul, Nat.zero_or,
    Nat.or_zero, Nat.shiftLeft_eq]
  omega

/-- CFG in numbers: SLAVE above MODE (10_state.md rule R23). -/
theorem Cfg.word_eq_ofNat (mode : Mode) (slave : BitVec 8) : (Cfg.mk mode slave).word =
    BitVec.ofNat 32 (256 * slave.toNat + if mode = .ascii then 1 else 0) := by
  apply BitVec.eq_of_toNat_eq
  refine (toNat_slave_mode slave _).trans ?_
  cases mode <;> simp <;> omega

/-- Settles O37: the state SETCFG leaves shows CFG and both valid bits; the frame is that of every
command. -/
theorem setcfgResultAndFrame : Obligations.SetcfgResultAndFrame := by
  refine ⟨decode_setcfg, fun mode slave s => ?_, fun s => ⟨_, rfl, congrArg some ?_⟩⟩
  · obtain ⟨t, ht⟩ := exec_total (.setcfg mode slave) s
    have hframe := exec_frame ht
    cases ht
    exact ⟨_, rfl, rfl, rfl, congrArg some (Cfg.word_eq_ofNat mode slave), rfl, rfl, rfl, rfl,
      hframe.regs, hframe.bytes, ⟨rfl, rfl, rfl⟩, hframe.host⟩
  · exact Cfg.word_eq_ofNat .ascii 17

/-! ### PUSH and CLRIN -/

/-- INBUF replaced and nothing returned: all but INBUF and INLEN is as before. -/
theorem setBuf_inb_frame (s : State) (b : List Byte) :
    regsKept [.inlen] s ((s.setBuf .inb b).give none) ∧
    bytesKept [.inb] s ((s.setBuf .inb b).give none) ∧
    transportKept s ((s.setBuf .inb b).give none) ∧ hostKept s ((s.setBuf .inb b).give none) :=
  ⟨(regsKept_setBuf s .inb b).trans fun r _ => readReg_give _ none r, bytesKept_setBuf s .inb b,
    ⟨rfl, rfl, rfl⟩, rfl, rfl⟩

theorem exec_push_of_room {s : State} (h : (s.buf .inb).length ≠ s.par.inMax) (byte : Byte) :
    exec (.push byte) s = .next ((s.setBuf .inb (s.buf .inb ++ [byte])).give none) := if_neg h

/-- Appending one byte changes no other index: below the length the old bytes stand, beyond it is none. -/
theorem getElem?_concat_of_ne {l : List Byte} {k : Nat} (h : k ≠ l.length) (b : Byte) :
    (l ++ [b])[k]? = l[k]? := by
  obtain hlt | hgt := Nat.lt_or_gt_of_ne h
  · exact List.getElem?_append_left hlt
  · rw [List.getElem?_eq_none (by simpa using hgt), List.getElem?_eq_none hgt.le]

/-- Settles O38: a full INBUF is on the contract's list; else the byte is appended, and the other buffers
are in the frame. -/
theorem pushResultAndFrame : Obligations.PushResultAndFrame := by
  refine fun byte s => ⟨?_, fun hfull => ?_, fun hroom => ?_⟩
  · rw [← encode_push]
    exact decode_encode_push byte
  · exact exec_illegal_of_outOfContract (by simpa [outOfContract] using hfull)
  · obtain ⟨hregs, hbytes, htransport, hhost⟩ := setBuf_inb_frame s (s.buf .inb ++ [byte])
    refine ⟨_, exec_push_of_room hroom byte, List.length_append, List.getElem?_concat_length,
      fun sp k hk => ?_, rfl, rfl, hregs, htransport, hhost⟩
    by_cases hsp : sp = .inb
    · subst hsp
      exact getElem?_concat_of_ne (fun hlen => hk ⟨rfl, hlen⟩) byte
    · exact hbytes sp k (by simpa using hsp)

/-- Settles O39: INBUF is replaced by the empty buffer. -/
theorem clrinResultAndFrame : Obligations.ClrinResultAndFrame :=
  ⟨by decide, fun s => ⟨_, rfl, rfl, rfl, rfl, rfl, setBuf_inb_frame s []⟩⟩

/-! ### LDB -/

/-- The space numbers of 20_memory.md rule R60. -/
theorem ofNum_of_mem_spaces {n : BitVec 3} {sp : Space}
    (h : (n, sp) ∈ [(0#3, Space.inb), (1#3, .out), (2#3, .tx), (3#3, .rx), (4#3, .pay)]) :
    Space.ofNum n = some sp := by
  revert n; cases sp <;> decide

theorem exec_ldb_of_byte {s : State} {n : BitVec 3} {sp : Space} {index : BitVec 32} {b : Byte}
    (hn : Space.ofNum n = some sp) (hb : s.readByte sp index.toNat = some b) :
    exec (.ldb n index) s = .next (s.give (some (b.setWidth 32))) := by
  simp only [exec, execLdb, hn, hb]

/-- Settles O40: a byte below the length is returned, and both other cases are on the contract's list. -/
theorem ldbResultAndFrame : Obligations.LdbResultAndFrame := by
  refine fun index s => ⟨fun n h => decode_ldb h index, fun a h => decode_ldb_error h index,
    fun n sp hmem => ?_, fun n hn => ?_⟩
  · have hsp := ofNum_of_mem_spaces hmem
    exact ⟨fun b hb => exec_ldb_of_byte hsp hb,
      fun hlen => exec_illegal_of_outOfContract (by simpa [outOfContract, hsp] using hlen)⟩
  · have hnone : Space.ofNum n = none := List.getElem?_eq_none hn
    exact exec_illegal_of_outOfContract (by simp [outOfContract, hnone])

/-! ### RDR -/

theorem exec_rdr_of_read {s : State} {n : BitVec 5} {r : Reg} {v : RetVal}
    (hn : Reg.ofNum n = some r) (hv : s.readReg r = some v) :
    exec (.rdr n) s = .next (s.give (some v)) := by
  simp only [exec, execRdr, hn, hv]

/-- Settles O41: a set written flag means a value to return, and a clear one is on the contract's list like
a number above 17. -/
theorem rdrResultAndFrame : Obligations.RdrResultAndFrame := by
  refine fun n s => ⟨decode_rdr, fun a h => decode_rdr_error h, fun r hr => ?_, fun hn => ?_⟩
  · have hr : Reg.ofNum n = some r := hr
    refine ⟨fun hw => ?_, fun hw => ?_⟩
    · obtain ⟨v, hv⟩ := Option.isSome_iff_exists.mp ((readReg_isSome s r).trans hw)
      exact ⟨v, hv, exec_rdr_of_read hr hv⟩
    · exact exec_illegal_of_outOfContract (by simp [outOfContract, hr, hw])
  · have hnone : Reg.ofNum n = none := List.getElem?_eq_none hn
    exact exec_illegal_of_outOfContract (by simp [outOfContract, hnone])

end Sys2Proof.Machine
end

section
/-! Which outcome an RDREGS reports: the first cause in the order of 60_exceptions.md rule R235, item 2. -/

namespace Sys2Proof.Machine

/-! ### The parser of the configured encoding -/

theorem parseAs_eq_ite (lowerOk : Bool) (mode : Mode) (raw : List Byte) :
    parseAs lowerOk mode raw = if mode = .rtu then parseRtu raw else parseAscii lowerOk raw := by
  cases mode <;> rfl

/-- The outcomes of either parser (41_frame_codec.md rules R155, R160). -/
theorem parseAs_error {lowerOk : Bool} {mode : Mode} {raw : List Byte} {c : Code}
    (h : parseAs lowerOk mode raw = .error c) :
    c = .frameTooShort ∨ c = .checksumMismatch ∨ c = .framingError := by
  cases mode with
  | rtu => exact (parseRtu_error h).elim .inl (.inr ∘ .inl)
  | ascii => exact .inr (parseAscii_error h).symm

/-! ### The causes, in their order: each lemma assumes that the earlier ones are absent -/

section
variable {lowerOk : Bool} {mode : Mode} {qty : BitVec 16} {rx : List Byte}

theorem classify_nil : classify lowerOk mode qty [] = .error .noResponse := rfl

theorem classify_short (hne : rx ≠ []) (hshort : mode = .rtu ∧ rx.length < 5 + 2 * qty.toNat) :
    classify lowerOk mode qty rx = .error .shortResponse := by
  rw [classify, if_neg (by simpa using hne), if_pos hshort]

theorem classify_parseAs_error (hne : rx ≠ []) (hlong : ¬ (mode = .rtu ∧ rx.length < 5 + 2 * qty.toNat))
    {c : Code} (hp : parseAs lowerOk mode rx = .error c) : classify lowerOk mode qty rx = .error c := by
  rw [classify, if_neg (by simpa using hne), if_neg hlong, hp]

theorem classify_payloadTooShort (hne : rx ≠ [])
    (hlong : ¬ (mode = .rtu ∧ rx.length < 5 + 2 * qty.toNat)) {p : List Byte}
    (hp : parseAs lowerOk mode rx = .ok p) (h3 : p.length < 3) :
    classify lowerOk mode qty rx = .error .payloadTooShort := by
  rw [classify, if_neg (by simpa using hne), if_neg hlong, hp]
  exact if_pos h3

end

/-- An RDREGS in contract returns nothing to the host, wherever the transaction ends. -/
theorem ret_of_exec_rdregs {s t : State} {start qty : BitVec 16} (hv : s.status.cfgValid = true)
    (h : exec (.rdregs start qty) s = .next t) : t.ret = none := by
  cases completes_of_execRdregs hv h <;> rfl

/-- Settles O28: the code is that of the transaction's result, which the first cause present decides. -/
theorem rdregsOutcomeIsTheFirstCause : Obligations.RdregsOutcomeIsTheFirstCause := by
  intro s start qty hv
  obtain ⟨t, ht⟩ := exec_total (.rdregs start qty) s
  have hcode : t.status.code = (transactionResult s.par s.cfg.mode qty s.nextAnswers).2.num :=
    congrArg Status.code (resultLeft_of_exec hv ht).status
  simp only [← readLength_eq_ite, ← parseAs_eq_ite]
  refine ⟨t, ht, ret_of_exec_rdregs hv ht, ?_⟩
  split
  next hrefused => rw [hcode, transactionResult_refused hrefused]; rfl
  next hanswered =>
  obtain ⟨hflush, hwrite⟩ : s.nextAnswers.flushOk = true ∧ s.nextAnswers.writeOk = true := by
    simpa using hanswered
  rw [transactionResult_answered hflush hwrite, Answers.read] at hcode
  generalize s.nextAnswers.rx.take (readLength s.par s.cfg.mode qty) = rx at hcode ⊢
  split
  next hnil => rw [hcode, hnil, classify_nil]; rfl
  next hne =>
  split
  next hshort => rw [hcode, classify_short hne hshort]; rfl
  next hlong =>
  cases hp : parseAs s.par.hexLowerOk s.cfg.mode rx with
  | error c =>
    rw [classify_parseAs_error hne hlong hp] at hcode
    obtain rfl | rfl | rfl := parseAs_error hp
    · exact .inl ⟨rfl, hcode⟩
    · exact .inr (.inl ⟨rfl, hcode⟩)
    · exact .inr (.inr ⟨rfl, hcode⟩)
  | ok p =>
    show if p.length < 3 then _ else _
    split
    next h3 => rw [hcode, classify_payloadTooShort hne hlong hp h3]; rfl
    next hpayload =>
      have hfull : s.cfg.mode = .rtu → 5 + 2 * qty.toNat ≤ rx.length := fun hm =>
        not_lt.mp fun hlt => hlong ⟨hm, hlt⟩
      rw [hcode, classify_eq_ok_of hne hfull hp (not_lt.mp hpayload)]; rfl

end Sys2Proof.Machine
end

section
/-! Every run reaches a defined end state (70_reset_and_hazards.md rule R281): every word has an effect, so
every step does, and no run stops on the way. -/

namespace Sys2Proof.Machine

/-- Every word completes, as its command or as the illegal command (30_encoding.md rule R122). -/
theorem runWord_total (w : Word) (s : State) : ∃ t, runWord w s = .next t := by
  cases hd : decode w with
  | ok i => simpa only [runWord, hd] using exec_total i s
  | error r => exact ⟨illegalCommand s, by simp only [runWord, hd]⟩

/-- Every step completes: an idle one holds the state, a word completes, a reset event answers the reset state. -/
theorem step_total (s : State) : ∃ t, step s = .next t := by
  rcases hp : s.port with _ | ⟨w | _ | ⟨w, made⟩, rest⟩
  case nil => exact ⟨s, by simp only [step, hp]⟩
  case cons.command => simpa only [step, hp] using runWord_total w { s with port := rest }
  case cons.reset => exact ⟨resetBlock { s with port := rest }, by simp only [step, hp]⟩
  case cons.commandCutByReset =>
    obtain ⟨t, ht⟩ := runWord_total w { s with port := rest }
    exact ⟨resetCutting made { s with port := rest } t, by simp only [step, hp, ht]⟩

/-- Settles O8, by induction on the number of steps: the first step completes, and the run goes on from there. -/
theorem everyRunReachesADefinedEndState : Obligations.EveryRunReachesADefinedEndState := by
  intro n
  induction n with
  | zero => exact fun s => ⟨s, rfl⟩
  | succ n ih =>
    intro s
    obtain ⟨u, hu⟩ := step_total s
    obtain ⟨t, ht⟩ := ih u
    exact ⟨t, (run_succ_of_step hu).trans ht⟩

end Sys2Proof.Machine
end

section
/-! Encoder and decoder are inverse (30_encoding.md rules R111 to R114): the fields of a command's word pass
the decoder's checks and give the operands back, and fields that pass them are those of their command. -/

namespace Sys2Proof

/-! ### From the command to its fields and back -/

/-- The encoder leaves every must-be-zero bit of its row zero. -/
theorem restIsZero_encodeFields (i : Instr) : (encodeFields i).restIsZero i.op = true := by
  cases i with
  | ldb space =>
    obtain ⟨hhigh, -⟩ := space_in_field space
    simp [encodeFields, Fields.restIsZero, Instr.op, Op.format, hhigh]
  | rdr n =>
    obtain ⟨hhigh, -⟩ := register_in_field n
    simp [encodeFields, Fields.restIsZero, Instr.op, Op.format, hhigh]
  | setcfg mode =>
    obtain ⟨hhigh, -⟩ := mode_in_field mode
    simp [encodeFields, Fields.restIsZero, Instr.op, Op.format, hhigh]
  | crc16 | lrc | buildRtu | buildAscii | parseRtu | parseAscii | rdregs | regslice | push | clrin => rfl

/-- Every operand is read back from the fields it was put in. -/
theorem operands_encodeFields (i : Instr) : operands i.op (encodeFields i) = i := by
  cases i with
  | regslice index => exact congrArg Instr.regslice (Machine.extractLsb'_halves index)
  | ldb space index => exact congrArg₂ Instr.ldb (space_in_field space).2 (Machine.extractLsb'_halves index)
  | rdr n => exact congrArg Instr.rdr (register_in_field n).2
  | setcfg mode slave => exact congrArg (Instr.setcfg · slave) (mode_in_field mode).2
  | crc16 | lrc | buildRtu | buildAscii | parseRtu | parseAscii | rdregs | push | clrin => rfl

/-- Settles O1: the encoded fields pass the decoder's checks, and its operands are the command's. -/
theorem decodeOfEncodeIsTheCommand : Obligations.DecodeOfEncodeIsTheCommand := fun i hwf =>
  Machine.decode_encode_of_checks (restIsZero_encodeFields i) (operands_encodeFields i) hwf

/-! ### From the fields to the command and back -/

/-- The operand in field `a` fills it again, where the bits above the operand are zero. -/
theorem field_of_space (a : BitVec 8) (h : a.extractLsb' 3 5 = 0) : (a.extractLsb' 0 3).setWidth 8 = a := by
  revert a; decide

theorem field_of_register (a : BitVec 8) (h : a.extractLsb' 5 3 = 0) :
    (a.extractLsb' 0 5).setWidth 8 = a := by
  revert a; decide

theorem field_of_mode (a : BitVec 8) (h : a.extractLsb' 1 7 = 0) :
    (BitVec.ofBool (bitOfMode (modeOfBit (a.getLsbD 0)))).setWidth 8 = a := by
  revert a; decide

/-- The halves of an index joined from `c` and `d`. -/
theorem halves_append (c d : BitVec 16) :
    (c ++ d).extractLsb' 16 16 = c ∧ (c ++ d).extractLsb' 0 16 = d :=
  ⟨BitVec.extractLsb'_append_eq_left, BitVec.extractLsb'_append_eq_right⟩

/-- Fields that pass the opcode and must-be-zero checks of a row are those of the command they hold. -/
theorem encodeFields_operands {o : Op} {f : Fields} (hop : f.op = o.code) (hz : f.restIsZero o = true) :
    encodeFields (operands o f) = f := by
  obtain ⟨op, a, b, c, d, z⟩ := f
  obtain rfl : op = o.code := hop
  obtain ⟨hc, hd⟩ := halves_append c d
  cases o with
  | ldb =>
    obtain ⟨rfl, ha, rfl⟩ : z = 0 ∧ a.extractLsb' 3 5 = 0 ∧ b = 0 := by
      simpa [Fields.restIsZero, Op.format] using hz
    simp only [operands, encodeFields, field_of_space a ha, hc, hd]
  | regslice =>
    obtain ⟨rfl, rfl, rfl⟩ : z = 0 ∧ a = 0 ∧ b = 0 := by simpa [Fields.restIsZero, Op.format] using hz
    simp only [operands, encodeFields, hc, hd]
  | rdr =>
    obtain ⟨rfl, ha, rfl, rfl, rfl⟩ : z = 0 ∧ a.extractLsb' 5 3 = 0 ∧ b = 0 ∧ c = 0 ∧ d = 0 := by
      simpa [Fields.restIsZero, Op.format, and_assoc] using hz
    simp only [operands, encodeFields, field_of_register a ha]
  | setcfg =>
    obtain ⟨rfl, ha, rfl, rfl⟩ : z = 0 ∧ a.extractLsb' 1 7 = 0 ∧ c = 0 ∧ d = 0 := by
      simpa [Fields.restIsZero, Op.format, and_assoc] using hz
    simp only [operands, encodeFields, field_of_mode a ha]
  | crc16 | lrc | buildRtu | buildAscii | parseRtu | parseAscii | rdregs | push | clrin =>
    -- In these rows each field is an operand as it stands, or zero.
    simp_all [Fields.restIsZero, Op.format, operands, encodeFields]

/-- Settles O2: an accepted word is joined from the fields of the command it holds. -/
theorem encodeOfDecodeIsTheWord : Obligations.EncodeOfDecodeIsTheWord := by
  intro w i h
  obtain ⟨hop, hz, hi, hwf⟩ := decode_eq_ok_iff.mp h
  have hfields : encodeFields i = fieldsOf w := by
    have hback := encodeFields_operands hop hz
    rwa [hi] at hback
  exact ⟨by rw [encode, hfields, word_fieldsOf], hwf⟩

/-- Settles O4, word by word. -/
theorem decodeOfSampleWords : Obligations.DecodeOfSampleWords := by
  unfold Obligations.DecodeOfSampleWords
  decide

end Sys2Proof
end

section
/-! The invariant of Safety.lean: it holds at reset, each shared operation keeps it, and so does every
command, word and step. -/

namespace Sys2Proof.Machine

/-! ### Registers and codes -/

theorem toNat_ofNat_of_lt {w n : Nat} (h : n < 2 ^ w) : (BitVec.ofNat w n).toNat = n :=
  (BitVec.toNat_ofNat n w).trans (Nat.mod_eq_of_lt h)

theorem Latch.blank.of_write {w : Nat} (v : BitVec w) : (Latch.write v).blank := nofun

theorem Latch.blank.of_unwritten (w : Nat) : (Latch.unwritten w).blank := fun _ => rfl

theorem Code.num_mem_codes (c : Code) : c.num ∈ Code.all.map Code.num :=
  List.mem_map_of_mem (by cases c <;> decide)

/-! ### Reset -/

/-- Settles O51, clause by clause. -/
theorem invariantHoldsAtReset : Obligations.InvariantHoldsAtReset where
  params := by decide
  buffers := Memory.wf_reset _
  code := Code.num_mem_codes .ok
  rxlen := Nat.le_refl 0
  rdlen := Nat.zero_le _
  validResponse := nofun
  noResponse := fun _ => ⟨rfl, rfl, rfl⟩
  validWritten := nofun
  framerFlags := ⟨rfl, rfl, rfl, rfl⟩
  sliceFlags := ⟨rfl, rfl, rfl⟩
  sliceZeros := ⟨Nat.zero_le 2, fun _ => rfl, fun _ => rfl⟩
  regaddr := Nat.zero_le _
  blanks := ⟨fun _ => rfl, .of_unwritten _, .of_unwritten _, .of_unwritten _, .of_unwritten _,
    .of_unwritten _, .of_unwritten _, .of_unwritten _, .of_unwritten _, .of_unwritten _,
    .of_unwritten _, .of_unwritten _⟩

/-- The reset values meet the invariant for every legal value of the parameters. -/
theorem resetBlock_inv {s : State} (h : s.par.legal = true) : (resetBlock s).Inv :=
  have hreset : State.reset.Inv := invariantHoldsAtReset
  { hreset with params := h, buffers := Memory.wf_reset _, rdlen := Nat.zero_le _ }

/-! ### The shared operations

The clauses an operation does not touch are those of the state before. -/

namespace State.Inv

variable {s : State} (h : s.Inv)
include h

theorem withPort (port : List HostInput) : { s with port := port }.Inv := { h with }

theorem give (v : Option RetVal) : (s.give v).Inv := { h with }

theorem call (c : TransportCall) : (s.call c).Inv := { h with }

theorem drawn : s.drawn.Inv := by
  unfold State.drawn
  split
  · exact { h with }
  · exact { h with }

theorem endWith (c : Code) : (s.endWith c).Inv := { h with code := Code.num_mem_codes c }

theorem illegalCommand : (illegalCommand s).Inv := { h with code := Code.num_mem_codes .illegalCommand }

theorem setOut {b : List Byte} (hb : b.length ≤ 17 + 2 * s.par.inMax) : (s.setBuf .out b).Inv :=
  { h with buffers := Memory.wf_setOut h.buffers hb }

theorem append (room : (s.buf .inb).length ≠ s.par.inMax) (b : Byte) : (s.append b).Inv :=
  { h with buffers := Memory.wf_append h.buffers room b }

theorem clearIn : (s.setBuf .inb []).Inv := { h with buffers := Memory.wf_clear h.buffers }

theorem writeCrc (v : BitVec 16) : { s with crc := .write v }.Inv := by
  obtain ⟨hcfg, -, hrest⟩ := h.blanks
  exact { h with blanks := ⟨hcfg, .of_write v, hrest⟩ }

theorem writeLrcr (v : BitVec 8) : { s with lrcr := .write v }.Inv := by
  obtain ⟨hcfg, hcrc, -, hrest⟩ := h.blanks
  exact { h with blanks := ⟨hcfg, hcrc, .of_write v, hrest⟩ }

theorem setCfg (c : Cfg) : { s with cfg := c, status := { s.status with cfgValid := true } }.Inv :=
  { h with
    validWritten := fun hv => ⟨rfl, (h.validWritten hv).2⟩
    blanks := ⟨nofun, h.blanks.2⟩ }

/-- The four slice registers, written together (42_read_framer.md rule R195). -/
theorem writeSlice {addr : BitVec 17} {len : BitVec 2} {b0 b1 : Byte} (haddr : addr.toNat ≤ 131069)
    (hlen : len.toNat ≤ 2) (h0 : len.toNat = 0 → b0 = 0) (h1 : len.toNat < 2 → b1 = 0) :
    { s with regaddr := .write addr, reglen := .write len, regb0 := .write b0, regb1 := .write b1 }.Inv := by
  obtain ⟨hcfg, hcrc, hlrcr, hrdlen, hstart, hqty, hcnt, hrb, -⟩ := h.blanks
  exact { h with
    sliceFlags := ⟨rfl, rfl, rfl⟩
    sliceZeros := ⟨hlen, h0, h1⟩
    regaddr := haddr
    blanks := ⟨hcfg, hcrc, hlrcr, hrdlen, hstart, hqty, hcnt, hrb, .of_write _, .of_write _, .of_write _,
      .of_write _⟩ }

/-- INBUF is within IN_MAX (10_state.md rule R25). -/
theorem inb_le : (s.buf .inb).length ≤ s.par.inMax := ((Memory.wf_iff _ _).mp h.buffers).1

/-! ### A transaction -/

/-- RDLEN's bound (10_state.md rule R25), which leaves it room in 32 bits. -/
theorem readLength_le (mode : Mode) (qty : BitVec 16) :
    readLength s.par mode qty ≤ max 131075 s.par.asciiRxMax ∧ readLength s.par mode qty < 2 ^ 32 := by
  obtain ⟨-, hmax⟩ : _ ∧ s.par.asciiRxMax < 2 ^ 32 := by simpa [Params.legal] using h.params
  cases mode with
  | rtu => simp only [readLength]; omega
  | ascii => exact ⟨le_max_right _ _, hmax⟩

theorem toNat_readLength (mode : Mode) (qty : BitVec 16) :
    (BitVec.ofNat 32 (readLength s.par mode qty)).toNat = readLength s.par mode qty :=
  toNat_ofNat_of_lt (h.readLength_le mode qty).2

/-- T0 empties the framer's buffers and writes registers 9 to 13 (42_read_framer.md rule R182). -/
theorem prepareRead (start qty : BitVec 16) : (s.prepareRead start qty).Inv := by
  obtain ⟨hcfg, hcrc, hlrcr, -, -, -, -, -, hslice⟩ := h.blanks
  exact { h with
    buffers := Memory.wf_setFramer h.buffers (.inl rfl) (Nat.zero_le _) (Nat.le_refl 0)
    rxlen := Nat.zero_le _
    rdlen := by
      rw [prepareRead_rdlen, Latch.write_value, h.toNat_readLength]
      exact (h.readLength_le _ _).1
    validResponse := nofun
    noResponse := fun _ => ⟨rfl, rfl, rfl⟩
    validWritten := nofun
    framerFlags := ⟨rfl, rfl, rfl, rfl⟩
    blanks := ⟨hcfg, hcrc, hlrcr, .of_write _, .of_write _, .of_write _, .of_write _, .of_write _,
      hslice⟩ }

theorem setTx {b : List Byte} (hb : b.length = 8 ∨ b.length = 17) : (s.setBuf .tx b).Inv := by
  obtain ⟨-, -, -, hrx, hpay⟩ := (Memory.wf_iff _ _).mp h.buffers
  exact { h with buffers := Memory.wf_setFramer h.buffers (.inr hb) hrx hpay }

/-- Bytes may enter RXBUF up to RDLEN, as long as no response is framed. -/
theorem setRx {b : List Byte} (hv : s.status.rspValid = false) (hb : b.length ≤ s.rdlen.value.toNat) :
    (s.setBuf .rx b).Inv := by
  obtain ⟨-, -, htx, -, -⟩ := (Memory.wf_iff _ _).mp h.buffers
  obtain ⟨hpay, -⟩ := h.noResponse hv
  refine { h with rxlen := hb, buffers := Memory.wf_setFramer h.buffers htx (hb.trans h.rdlen) ?_ }
  simp [hpay]

/-- T4 frames a payload that RXBUF carried (42_read_framer.md rule R190). -/
theorem deliver {p : List Byte} (h3 : 3 ≤ p.length) (hp : p.length ≤ s.mem.rx.length)
    (hcfg : s.status.cfgValid = true) (hw : s.rdlen.written = true) : (s.deliver p).Inv := by
  obtain ⟨-, -, htx, hrx, -⟩ := (Memory.wf_iff _ _).mp h.buffers
  obtain ⟨hstart, hqty, -, -⟩ := h.framerFlags
  obtain ⟨hbcfg, hcrc, hlrcr, hrdlen, hbstart, hbqty, -, -, hslice⟩ := h.blanks
  have hcount : (registerBytes p).length < 2 ^ 8 := by rw [registerBytes_length]; omega
  exact { h with
    buffers := Memory.wf_setFramer h.buffers htx hrx hp
    validResponse := fun _ => ⟨h3, rfl, toNat_ofNat_of_lt hcount⟩
    noResponse := nofun
    validWritten := fun _ => ⟨hcfg, hw⟩
    framerFlags := ⟨hstart, hqty, hw.symm, hw.symm⟩
    blanks := ⟨hbcfg, hcrc, hlrcr, hrdlen, hbstart, hbqty, .of_write _, .of_write _, hslice⟩ }

end State.Inv

/-- The request is as long as 30_encoding.md rules R93 and R95 say: it carries no extra data. -/
theorem requestFrame_length (c : Cfg) (start qty : BitVec 16) :
    (requestFrame c start qty).length = 8 ∨ (requestFrame c start qty).length = 17 := by
  obtain ⟨mode, slave⟩ := c
  cases mode with
  | rtu => exact .inl (rtuFrame_length _)
  | ascii => exact .inr (asciiFrame_length _)

/-- An accepted frame is longer than its payload, in either encoding. -/
theorem parseAs_length_le {lowerOk : Bool} {mode : Mode} {raw p : List Byte}
    (h : parseAs lowerOk mode raw = .ok p) : p.length ≤ raw.length := by
  cases mode with
  | rtu => have := parseRtu_length h; omega
  | ascii => have := parseAscii_length h; omega

theorem Answers.read_length_le (a : Answers) (n : Nat) : (a.read n).length ≤ n := List.length_take_le ..

/-- After each of T1, T2 and T3 the invariant holds: the bytes of the last are within RDLEN. -/
theorem TransactionStage.inv {s u : State} {start qty : BitVec 16} (h : TransactionStage s start qty u)
    (hs : s.Inv) : u.Inv := by
  have flushed : (afterFlush s start qty).Inv := (hs.prepareRead start qty).drawn.call _
  have written : (afterWrite s start qty).Inv := (flushed.setTx (requestFrame_length ..)).call _
  cases h with
  | flush => exact flushed
  | write => exact written
  | read =>
    have hwrite : TransactionStage s start qty (afterWrite s start qty) := .write
    obtain ⟨-, -, -, -, -, hrdlen, -⟩ := hwrite.prepared
    refine (written.call _).setRx (by simp [hwrite.status]) ?_
    rw [call_rdlen, hrdlen, Latch.write_value, hs.toNat_readLength]
    exact Answers.read_length_le _ _

theorem execRdregs_inv {s t : State} {start qty : BitVec 16} (hs : s.Inv) (hv : s.status.cfgValid = true)
    (h : execRdregs start qty s = .next t) : t.Inv := by
  obtain ⟨-, rfl⟩ | ⟨-, -, rfl⟩ | ⟨-, -, c, -, rfl⟩ | ⟨-, -, p, hcl, rfl⟩ := execRdregs_cases hv h
  · exact (TransactionStage.flush.inv hs).endWith _
  · exact (TransactionStage.write.inv hs).endWith _
  · exact (TransactionStage.read.inv hs).endWith c
  · obtain ⟨-, -, hp, h3⟩ := classify_ok hcl
    have hread : TransactionStage s start qty (afterRead s start qty) := .read
    exact ((hread.inv hs).deliver h3 (parseAs_length_le hp) (by simp [hread.status, hv])
      hread.flags.1).endWith .ok

/-! ### Every command and every step -/

/-- A parse command leaves a payload shorter than INBUF, or an empty OUTBUF. -/
theorem endParse_inv {s : State} (hs : s.Inv) {r : Except Code (List Byte)}
    (hr : ∀ p, r = .ok p → p.length ≤ (s.buf .inb).length) : (s.endParse r).Inv := by
  have hin := hs.inb_le
  cases r with
  | ok p =>
    have hp := hr p rfl
    exact (hs.setOut (by omega)).endWith .ok
  | error c => exact (hs.setOut (Nat.zero_le _)).endWith c

/-- The slice registers a REGSLICE writes are within their bounds, and 0 where there is no byte. -/
theorem execRegslice_inv {s t : State} {index : BitVec 32} (hs : s.Inv)
    (h : execRegslice index s = .next t) : t.Inv := by
  simp only [execRegslice] at h
  split at h <;> cases h
  next => exact hs.illegalCommand
  next hin =>
    have hn := sliceLength_le_two s.rblen.value.toNat index.toNat
    generalize sliceLength s.rblen.value.toNat index.toNat = n at hn
    have hlen : (BitVec.ofNat 2 n).toNat = n := toNat_ofNat_of_lt (by omega)
    have haddr : (BitVec.ofNat 17 (s.rspStart.value.toNat + index.toNat)).toNat =
      s.rspStart.value.toNat + index.toNat := toNat_ofNat_of_lt (by omega)
    exact (hs.writeSlice (by omega) (hlen.trans_le hn) (fun h0 => if_neg (by omega))
      (fun h1 => if_neg (by omega))).endWith .ok

theorem exec_inv {i : Instr} {s t : State} (hs : s.Inv) (h : exec i s = .next t) : t.Inv := by
  have hin := hs.inb_le
  obtain ⟨-, rfl⟩ | ⟨hc, hcompletes⟩ := exec_cases h
  · exact hs.illegalCommand
  cases i with
  | crc16 => cases h; exact ((hs.writeCrc _).setOut (b := crc16 _) (by simp; omega)).endWith .ok
  | lrc => cases h; exact ((hs.writeLrcr _).setOut (b := [lrc _]) (by simp; omega)).endWith .ok
  | buildRtu =>
    cases h
    refine (hs.setOut ?_).endWith .ok
    rw [buildRtu, rtuFrame_length, body_length]; omega
  | buildAscii =>
    cases h
    refine (hs.setOut ?_).endWith .ok
    rw [buildAscii, asciiFrame_length, body_length]; omega
  | parseRtu => cases h; exact endParse_inv hs fun p hp => by have := parseRtu_length hp; omega
  | parseAscii => cases h; exact endParse_inv hs fun p hp => by have := parseAscii_length hp; omega
  | rdregs => exact execRdregs_inv hs (by simpa [outOfContract] using hc) h
  | regslice => exact execRegslice_inv hs h
  | push => cases hcompletes; exact (hs.append (by simpa [outOfContract] using hc) _).give none
  | clrin => cases h; exact hs.clearIn.give none
  | ldb | rdr => cases hcompletes; exact hs.give _
  | setcfg => cases h; exact (hs.setCfg _).give none

theorem runWord_inv {w : Word} {s t : State} (hs : s.Inv) (h : runWord w s = .next t) : t.Inv := by
  obtain ⟨i, -, hi⟩ | ⟨r, -, rfl⟩ := runWord_cases h
  · exact exec_inv hs hi
  · exact hs.illegalCommand

/-- Settles O52: a word keeps it, and a reset needs the parameters only, which the state before it had. -/
theorem invariantIsKeptByEveryStep : Obligations.InvariantIsKeptByEveryStep := by
  intro s t hs h
  obtain ⟨-, rfl⟩ | ⟨w, rest, -, hw⟩ | ⟨rest, -, rfl⟩ | ⟨w, made, rest, u, -, hw, rfl⟩ := step_cases h
  · exact hs
  · exact runWord_inv (hs.withPort rest) hw
  · exact resetBlock_inv hs.params
  · exact resetBlock_inv (runWord_inv (hs.withPort rest) hw).params

end Sys2Proof.Machine
end

section
/-! What a step does with the input it takes: the command of a word, a reset before or during a command, and
what none of them changes (00_scope.md rules R6, R7, 70_reset_and_hazards.md rules R260, R261). -/

namespace Sys2Proof.Machine

/-! ### A word on the port -/

theorem decode_of_decodeTableWord {nbits w : Nat} {i : Instr} (h : decodeTableWord nbits w = some i) :
    decode (tableWord nbits w) = .ok i := by
  rw [decodeTableWord] at h
  cases hd : decode (tableWord nbits w) with
  | error r => rw [hd] at h; cases h
  | ok j => rw [hd] at h; cases h; rfl

/-- Settles O5: the step takes the word off the port and runs its command; an empty port gives it nothing. -/
theorem stepRunsTheDecodedCommand : Obligations.StepRunsTheDecodedCommand :=
  ⟨fun _ _ _ _ hp hd => step_of_decode_ok hp hd,
    fun s nbits w _ h => step_of_decode_ok (s := s.withFetchWord nbits w) rfl (decode_of_decodeTableWord h),
    fun s hp => by simp only [step, hp]⟩

/-- A word's effect keeps the parameters and the inputs behind it. -/
theorem runWord_hostKept {w : Word} {s t : State} (h : runWord w s = .next t) : hostKept s t := by
  obtain ⟨i, -, hi⟩ | ⟨r, -, rfl⟩ := runWord_cases h
  · exact (exec_frame hi).host
  · exact ⟨rfl, rfl⟩

/-- Settles O53: the word kept what stood behind it, and so did the reset. -/
theorem stepsKeepTheParameters : Obligations.StepsKeepTheParameters := by
  intro s t h
  obtain ⟨hp, rfl⟩ | ⟨w, rest, hp, hw⟩ | ⟨rest, hp, rfl⟩ | ⟨w, made, rest, u, hp, hw, rfl⟩ := step_cases h
  · rw [hp]; exact ⟨rfl, rfl⟩
  · rw [hp]; exact runWord_hostKept hw
  · rw [hp]; exact ⟨rfl, rfl⟩
  · rw [hp]; exact runWord_hostKept hw

/-! ### Reset -/

theorem buf_resetBlock (s : State) (sp : Space) : (resetBlock s).buf sp = [] := by cases sp <;> rfl

/-- The reset values as the host reads them (10_state.md rule R40). -/
theorem readReg_resetBlock (s : State) (r : Reg) : (resetBlock s).readReg r =
    if r ∈ [Reg.status, .inlen, .outlen, .txlen, .rxlen, .paylen] then some 0 else none := by
  have hreset : (resetBlock s).readReg r = State.reset.readReg r := by cases r <;> rfl
  rw [hreset]
  cases r <;> decide

theorem TransactionCalls.length_le {new : List TransportCall} (h : TransactionCalls new) :
    new.length ≤ 3 := by
  obtain rfl | ⟨f, rfl⟩ | ⟨f, n, rfl⟩ := h <;> simp

/-- A word adds no more calls than one transaction makes (20_memory.md rule R71). -/
theorem runWord_calls {w : Word} {s t : State} (h : runWord w s = .next t) :
    ∃ new, t.calls = s.calls ++ new ∧ new.length ≤ 3 := by
  have none_made {t : State} (hkept : t.calls = s.calls) :
      ∃ new, t.calls = s.calls ++ new ∧ new.length ≤ 3 := ⟨[], by simpa using hkept, Nat.zero_le 3⟩
  obtain ⟨i, -, hi⟩ | ⟨r, -, rfl⟩ := runWord_cases h
  · obtain ⟨hkept, -⟩ | ⟨-, new, hnew, hcalls⟩ := exec_transport hi
    · exact none_made hkept
    · exact ⟨new, hnew, hcalls.length_le⟩
  · exact none_made rfl

/-- Settles O9: the state of every reset is `resetBlock` of some state, and a cut command's calls are those
it made whole, cut. -/
theorem resetEventGivesTheResetState : Obligations.ResetEventGivesTheResetState := by
  refine ⟨⟨buf_resetBlock .reset, readReg_resetBlock .reset⟩, fun s rest =>
    ⟨fun hp => ?_, fun w made hp => ?_⟩⟩
  · exact ⟨resetBlock { s with port := rest }, by simp only [step, hp],
      ⟨buf_resetBlock _, readReg_resetBlock _⟩, rfl, rfl, rfl, rfl⟩
  · obtain ⟨u, hu⟩ := runWord_total w { s with port := rest }
    obtain ⟨hpar, hport⟩ := runWord_hostKept hu
    obtain ⟨new, hnew, hlen⟩ := runWord_calls hu
    refine ⟨resetCutting made { s with port := rest } u, u, new, by simp only [step, hp, hu], hu, hnew, ?_,
      hlen, ⟨buf_resetBlock _, readReg_resetBlock _⟩, hpar, hport⟩
    simp [resetCutting, hnew]

end Sys2Proof.Machine
end

section
/-! What the host reads after a command: registers in numbers, no payload without OK, and the registers of a
response as REGSLICE gives them. -/

namespace Sys2Proof.Machine

/-! ### Registers in numbers (10_state.md rules R22 to R25) -/

/-- A register of at most 32 bits reads as the number it holds. -/
theorem Latch.toNat_of_read {w : Nat} (hw : w ≤ 32) {r : Latch w} {v : RetVal} (h : r.read = some v) :
    v.toNat = r.value.toNat := by
  rw [Latch.read] at h
  split at h <;> cases h
  exact BitVec.toNat_setWidth_of_le hw

theorem Latch.read_lt {w : Nat} (hw : w ≤ 32) {r : Latch w} {v : RetVal} (h : r.read = some v) :
    v.toNat < 2 ^ w := by
  rw [Latch.toNat_of_read hw h]
  exact r.value.isLt

/-- The layout of STATUS (10_state.md rule R22). -/
theorem Status.word_fields (t : Status) : t.word.extractLsb' 0 4 = t.code ∧ t.word.getLsbD 4 = t.rspValid ∧
    t.word.getLsbD 5 = t.cfgValid ∧ ∀ k, 6 ≤ k → t.word.getLsbD k = false := by
  refine ⟨BitVec.extractLsb'_append_eq_right, ?_, ?_, fun k hk => ?_⟩
  · simp only [Status.word, BitVec.getLsbD_append]; simp
  · simp only [Status.word, BitVec.getLsbD_append]; simp
  · simp only [Status.word, BitVec.getLsbD_append]
    rw [if_neg (by omega), if_neg (by omega), if_neg (by omega)]
    exact BitVec.getLsbD_zero

/-- The layout of CFG (10_state.md rule R23). -/
theorem Cfg.word_fields (c : Cfg) : c.word.getLsbD 0 = decide (c.mode = .ascii) ∧
    c.word.extractLsb' 8 8 = c.slave ∧ c.word.toNat < 65536 ∧ c.word.extractLsb' 1 7 = 0 := by
  obtain ⟨mode, slave⟩ := c
  refine ⟨?_, ?_, ?_, ?_⟩
  · simp only [Cfg.word, BitVec.getLsbD_append]
    cases mode <;> rfl
  · rw [Cfg.word, BitVec.extractLsb'_append_eq_of_le (by decide),
      BitVec.extractLsb'_append_eq_of_le (by decide)]
    exact BitVec.extractLsb'_append_eq_right
  · rw [Cfg.word_eq_ofNat]
    have := slave.isLt
    cases mode <;> simp <;> omega
  · rw [Cfg.word, BitVec.extractLsb'_append_eq_of_le (by decide)]
    exact BitVec.extractLsb'_append_eq_right

/-- In a state of a run no buffer is longer than its length register can say. -/
theorem State.Inv.buf_length_lt {s : State} (h : s.Inv) (sp : Space) : (s.buf sp).length < 2 ^ 32 := by
  obtain ⟨hin, hout, htx, hrx, hpay⟩ := (Memory.wf_iff _ _).mp h.buffers
  have hpar := h.params
  simp only [Params.legal, Bool.and_eq_true, decide_eq_true_eq] at hpar
  cases sp <;> simp only [State.buf, Memory.buf] <;> omega

theorem toNat_len {s : State} (h : s.Inv) (sp : Space) : (s.len sp).toNat = (s.buf sp).length :=
  toNat_ofNat_of_lt (h.buf_length_lt sp)

theorem eq_lengthReg {r : Reg} {sp : Space} (h : (r, sp) ∈ [(Reg.inlen, Space.inb), (.outlen, .out),
    (.txlen, .tx), (.rxlen, .rx), (.paylen, .pay)]) : r = lengthReg sp := by
  have hmap : (r, sp) ∈ [Space.inb, .out, .tx, .rx, .pay].map (fun sp => (lengthReg sp, sp)) := h
  obtain ⟨_, -, ⟨⟩⟩ := List.mem_map.mp hmap
  rfl

/-- Settles O42, register by register. -/
theorem registerReadsAreZeroExtended : Obligations.RegisterReadsAreZeroExtended := by
  refine fun s v => ⟨fun h => ?_, fun h => ?_, fun hinv r sp hmem h => ?_, fun r w hmem h => ?_⟩
  · cases h; exact s.status.word_fields
  · simp only [State.readReg] at h
    split at h <;> cases h
    exact s.cfg.word_fields
  · obtain rfl : r = lengthReg sp := eq_lengthReg hmem
    rw [readReg_lengthReg] at h
    cases h
    exact toNat_len hinv sp
  · simp only [List.mem_cons, Prod.mk.injEq, List.not_mem_nil, or_false] at hmem
    rcases hmem with ⟨rfl, rfl⟩ | ⟨rfl, rfl⟩ | ⟨rfl, rfl⟩ | ⟨rfl, rfl⟩ | ⟨rfl, rfl⟩ | ⟨rfl, rfl⟩ |
      ⟨rfl, rfl⟩ | ⟨rfl, rfl⟩ | ⟨rfl, rfl⟩ | ⟨rfl, rfl⟩ <;> exact Latch.read_lt (by decide) h

/-! ### No payload without OK -/

/-- Settles O50: what a parse command and a transaction answer, with a code that is not OK's. -/
theorem noPayloadWithoutOk : Obligations.NoPayloadWithoutOk := by
  intro i s t h hcode
  refine ⟨?_, fun hi hv => ?_⟩
  · have no_payload {r : Except Code (List Byte)} (ht : t = s.codecEnd (parseAnswer r)) :
        t.buf .out = [] := by
      subst ht
      exact parseAnswer_failed fun hok => hcode (congrArg Code.num hok)
    rintro (rfl | rfl)
    · exact no_payload (Host.Outcome.next.inj (h.symm.trans (exec_parseRtu s)))
    · exact no_payload (Host.Outcome.next.inj (h.symm.trans (exec_parseAscii s)))
  · cases i with
    | rdregs start qty =>
      have hres := resultLeft_of_exec hv h
      have hfail : (transactionResult s.par s.cfg.mode qty s.nextAnswers).2 ≠ .ok := fun hok => by
        rw [hres.status, hok] at hcode
        exact hcode rfl
      exact ⟨hres.pay.trans (transactionResult_failed hfail), by simp [hres.status, hfail]⟩
    | crc16 | lrc | buildRtu | buildAscii | parseRtu | parseAscii | regslice | push | clrin | ldb | rdr
    | setcfg => cases hi

/-! ### The slices of a response -/

theorem slice_getD (s : List Byte) (a b k : Nat) :
    (slice s a b).getD k 0 = if a + k < b then s.getD (a + k) 0 else 0 := by
  rw [List.getD_eq_getElem?_getD, slice_getElem?]
  split <;> simp

/-- The number of bytes of a clamped slice of a register's two bytes (42_read_framer.md rule R195). -/
theorem sliceLength_eq_slice_length (s : List Byte) (i : Nat) :
    sliceLength s.length i = (slice s (2 * i) (2 * i + 2)).length := by
  rw [slice_length, sliceLength]
  split_ifs <;> omega

/-- Byte `k` of the register bytes stands behind the three bytes of the payload's header. -/
theorem registerBytes_getD {p : List Byte} {k : Nat} (h : k < (registerBytes p).length) :
    (registerBytes p).getD k 0 = p.getD (3 + k) 0 := by
  rw [registerBytes_length] at h
  rw [registerBytes, slice_getD, if_pos (by omega)]

/-- Byte `k` of a register's slice is the payload's where RBLEN reaches it, else 0. -/
theorem slice_registerBytes_getD (p : List Byte) (i : Nat) {k : Nat} (hk : k < 2) :
    (slice (registerBytes p) (2 * i) (2 * i + 2)).getD k 0 =
      if k < sliceLength (registerBytes p).length i then p.getD (3 + (2 * i + k)) 0 else 0 := by
  rw [slice_getD, if_pos (by omega), sliceLength_eq_slice_length, slice_length]
  split
  next hin => exact registerBytes_getD (by omega)
  next hout => rw [List.getD_eq_getElem?_getD, List.getElem?_eq_none (by omega)]; rfl

/-- Settles O36: the invariant gives RBLEN as the number of register bytes. -/
theorem regsliceIsTheClampedSlice : Obligations.RegsliceIsTheClampedSlice := by
  intro s index hinv hv hi part
  obtain ⟨-, -, hrblen : s.rblen.value.toNat = (registerBytes (s.buf .pay)).length⟩ := hinv.validResponse hv
  obtain ⟨t, ht, hleft⟩ := exec_regslice_of_inContract hv hi
  obtain ⟨-, -, -, hlen, hb0, hb1, -⟩ := hleft
  have hle := sliceLength_le_two (registerBytes (s.buf .pay)).length index.toNat
  rw [hrblen] at hlen hb0 hb1
  refine ⟨t, ht, ?_, ?_, ?_⟩
  · rw [hlen, ← sliceLength_eq_slice_length]
  · rw [hb0, slice_registerBytes_getD _ _ (by decide)]; rfl
  · rw [hb1, slice_registerBytes_getD _ _ (by decide)]
    have htwo : sliceLength (registerBytes (s.buf .pay)).length index.toNat = 2 ↔
      1 < sliceLength (registerBytes (s.buf .pay)).length index.toNat := by omega
    simp only [htwo, show 4 + 2 * index.toNat = 3 + (2 * index.toNat + 1) by omega]

end Sys2Proof.Machine
end

section
/-! A well-formed answer through RDREGS and REGSLICE (30_encoding.md rules R94, R96, R98, 42_read_framer.md
rule R194): its registers arrive in order, in either encoding. -/

namespace Sys2Proof.Machine

/-! ### The answer -/

/-- The payload of a response that carries the register bytes `data` (30_encoding.md rule R97). -/
def responsePayload (slave func : BitVec 8) (data : List Byte) : List Byte :=
  [slave, func, BitVec.ofNat 8 data.length] ++ data

section
variable (slave func : BitVec 8) {data : List Byte}

@[simp] theorem responsePayload_length :
    (responsePayload slave func data).length = 3 + data.length := by
  rw [responsePayload, List.length_append]; rfl

theorem responsePayload_getElem?_data (k : Nat) : (responsePayload slave func data)[3 + k]? = data[k]? := by
  rw [responsePayload, List.getElem?_append_right (by simp)]
  simp

/-- Its byteCount is the length of the data, so that the register bytes are the data in full. -/
theorem registerBytes_responsePayload_length (h : data.length ≤ 255) :
    (registerBytes (responsePayload slave func data)).length = data.length := by
  have hcount : (byteCount (responsePayload slave func data)).toNat = data.length :=
    toNat_ofNat_of_lt (by omega)
  rw [registerBytes_length, hcount, responsePayload_length, Nat.add_sub_cancel_left, Nat.min_self]

/-- A frame of such a payload that the read takes in full is classified as that payload. -/
theorem classify_read_responsePayload {par : Params} {mode : Mode} {qty : BitVec 16}
    (hlen : data.length = 2 * qty.toNat) (hfit : mode = .ascii → 11 + 4 * qty.toNat ≤ par.asciiRxMax)
    {a : Answers} (ha : a.rx = if mode = .rtu then rtuFrame (responsePayload slave func data)
      else asciiFrame (responsePayload slave func data)) :
    classify par.hexLowerOk mode qty (a.read (readLength par mode qty)) =
      .ok (responsePayload slave func data) := by
  have hpayload := responsePayload_length slave func (data := data)
  refine (classify_read_of_parsed ?_).2.2
  cases mode with
  | rtu =>
    rw [if_pos rfl] at ha ⊢
    have hframe := rtuFrame_length (responsePayload slave func data)
    rw [ha, List.take_of_length_le (by omega)]
    exact ⟨by omega, parseRtu_rtuFrame (List.cons_ne_nil _ _)⟩
  | ascii =>
    have hmax := hfit rfl
    rw [if_neg (by decide)] at ha ⊢
    have hframe := asciiFrame_length (responsePayload slave func data)
    rw [ha, List.take_of_length_le (by omega)]
    exact ⟨parseAscii_asciiFrame _ _, by omega⟩

end

/-! ### The delivery -/

/-- What a delivered payload leaves for REGSLICE, which goes by the values of its registers. -/
theorem ResultLeft.delivered {s t : State} {start qty : BitVec 16} {p : List Byte}
    (h : ResultLeft s start qty (p, .ok) t) :
    t.status.rspValid = true ∧ t.rspStart.value = start ∧ t.rspQty.value = qty ∧
    t.rblen.value.toNat = (registerBytes p).length := by
  have hshort : (registerBytes p).length < 2 ^ 32 := by rw [registerBytes_length]; omega
  refine ⟨by rw [h.status]; rfl, ?_, ?_, ?_⟩
  · apply BitVec.eq_of_toNat_eq
    rw [← Latch.toNat_of_read (by decide) h.rspStart, BitVec.toNat_setWidth_of_le (by decide)]
  · apply BitVec.eq_of_toNat_eq
    rw [← Latch.toNat_of_read (by decide) h.rspQty, BitVec.toNat_setWidth_of_le (by decide)]
  · rw [← Latch.toNat_of_read (by decide) h.rblen, toNat_ofNat_of_lt hshort]

/-- A register within RBLEN is read in full: its two bytes stand in PAYBUF behind the header. -/
theorem exec_regslice_of_bytes {t : State} {i : Nat} {x y : Byte} (hv : t.status.rspValid = true)
    (hi : i < t.rspQty.value.toNat) (hrb : 2 * i + 2 ≤ t.rblen.value.toNat)
    (hx : t.readByte .pay (3 + 2 * i) = some x) (hy : t.readByte .pay (4 + 2 * i) = some y) :
    ∃ u, exec (.regslice (BitVec.ofNat 32 i)) t = .next u ∧ u.status.code = 0 ∧
      u.readReg .regaddr = some (BitVec.ofNat 32 (t.rspStart.value.toNat + i)) ∧
      u.readReg .reglen = some 2 ∧ u.readReg .regb0 = some (x.setWidth 32) ∧
      u.readReg .regb1 = some (y.setWidth 32) := by
  have hindex : (BitVec.ofNat 32 i).toNat = i := toNat_ofNat_of_lt (by omega)
  obtain ⟨-, -, hin⟩ := regsliceResultAndFrame t (BitVec.ofNat 32 i)
  obtain ⟨u, hu, hcode, -, -, haddr, htwo, -⟩ := hin hv (hindex.symm ▸ hi)
  rw [hindex] at haddr htwo
  obtain ⟨hlen, hb0, hb1⟩ := htwo hrb
  exact ⟨u, hu, hcode, haddr, hlen, hb0 x hx, hb1 y hy⟩

/-- Settles O34: the answer is classified as its payload, whose registers REGSLICE then reads in full. -/
theorem wellFormedAnswerIsDeliveredRegisterByRegister :
    Obligations.WellFormedAnswerIsDeliveredRegisterByRegister := by
  intro s start qty slave func data hv hlen hbyte hfit hans
  have hcl := classify_read_responsePayload slave func (par := s.par) (a := s.nextAnswers) hlen hfit
    (by rw [hans]; rfl)
  obtain ⟨t, ht⟩ := exec_total (.rdregs start qty) s
  have hres := resultLeft_of_exec hv ht
  rw [transactionResult_answered (by rw [hans]) (by rw [hans]), hcl] at hres
  obtain ⟨hvalid, hstart, hqty, hrblen⟩ := hres.delivered
  rw [registerBytes_responsePayload_length slave func hbyte] at hrblen
  have hpay (k : Nat) : t.readByte .pay (3 + k) = data[k]? := by
    rw [State.readByte, hres.pay]
    exact responsePayload_getElem?_data slave func k
  refine ⟨t, ht, by rw [hres.status]; rfl, fun i hi => ?_⟩
  have hx : data[2 * i]? = some data[2 * i] := List.getElem?_eq_getElem (by omega)
  have hy : data[2 * i + 1]? = some data[2 * i + 1] := List.getElem?_eq_getElem (by omega)
  obtain ⟨u, hu, hcode, haddr, hreglen, hb0, hb1⟩ := exec_regslice_of_bytes hvalid (hqty ▸ hi) (by omega)
    ((hpay _).trans hx) (by rw [show 4 + 2 * i = 3 + (2 * i + 1) by omega]; exact (hpay _).trans hy)
  exact ⟨u, _, _, hu, hcode, hx, hy, hstart ▸ haddr, hreglen, hb0, hb1⟩

end Sys2Proof.Machine
end
